-- ==== Sys2Proof/Word.lean ====
section
/-! DEFINITION. The words of the block: every space and every stream moves whole 32-bit words (spec R14, R71), and a
number is the 32-bit pattern of a binary32 value (spec R8). -/

namespace Sys2Proof

/-- A word of the command port, of `din`, of `dout` or of the register space (R14, R71). -/
abbrev Word := BitVec 32

/-- `Num32`, by its binary32 bit pattern: bit 31 the sign, 30:23 the exponent, 22:0 the fraction (R8). `bits` and `asnum`
of R16 are the identity on it. -/
abbrev Num32 := BitVec 32

/-- +0.0, the reset value of every number register (R12, R240). -/
def posZero : Num32 := 0x00000000#32

/-- 1.0, the reset value of `BQ_B0` (R47). -/
def numOne : Num32 := 0x3F800000#32

/-- The key of one free value: the path of the place that draws it. Two different places of a run have different keys,
so nothing relates the values they draw (log 2, log 4). -/
abbrev Draw := List Nat

end Sys2Proof
end

