-- ==== Sys2Proof/Syntax.lean ====
section
/-! DEFINITION. The fourteen commands of the block, one constructor per row of the opcode table (spec R92). Fields are
named as R91 and R97 name them. -/

namespace Sys2Proof

/-- The buffer select field `b`: 0 is `BUFLO`, 1 is `BUFHI` (R91). -/
inductive BufSel where
  | lo
  | hi
  deriving DecidableEq, Repr, Inhabited

/-- The variant bit `v[16]` of `OAC.RUN`: 0 the tanh variant, 1 the omega-knee variant (R94). -/
inductive OacVariant where
  | tanh
  | knee
  deriving DecidableEq, Repr, Inhabited

/-- A decoded command (R92). Channels and sections are 4-bit fields held as numbers; `Instr.wf` says they fit. -/
inductive Instr where
  | nop
  | prepare
  | reset (m : BitVec 6)
  | wreg (a : BitVec 16)
  | rreg (a : BitVec 16)
  | ldblk (c : Nat) (b : BufSel)
  | stblk (c : Nat) (b : BufSel)
  | lwsRun (c : Nat) (b : BufSel)
  | dwsRun (c : Nat)
  | oacRun (c : Nat) (b : BufSel) (v : OacVariant)
  | triRun (c : Nat)
  | ovsUp (c : Nat)
  | ovsDown (c : Nat)
  | bqcRun (c : Nat) (b : BufSel) (f l : Nat)
  deriving DecidableEq, Repr, Inhabited

end Sys2Proof
end

