-- ==== Sys2Proof/WellFormed.lean ====
section
/-! DEFINITION. Which terms of `Instr` a command word can spell: the channel and the two section numbers are 4-bit
fields (spec R91, R94). What depends on the state or on the instance (c against `ACT_NCH`, l against `NSEC`, f against
l) is a fault of the running command and no part of this check (R93). -/

namespace Sys2Proof

/-- The instruction's fields fit the fields of the command word (R91). -/
def Instr.wf : Instr → Bool
  | .nop => true
  | .prepare => true
  | .reset _ => true
  | .wreg _ => true
  | .rreg _ => true
  | .ldblk c _ => decide (c < 16)
  | .stblk c _ => decide (c < 16)
  | .lwsRun c _ => decide (c < 16)
  | .dwsRun c => decide (c < 16)
  | .oacRun c _ _ => decide (c < 16)
  | .triRun c => decide (c < 16)
  | .ovsUp c => decide (c < 16)
  | .ovsDown c => decide (c < 16)
  | .bqcRun c _ f l => decide (c < 16) && decide (f < 16) && decide (l < 16)

end Sys2Proof
end

