-- ==== Sys2Proof/Decode.lean ====
section
/-! DEFINITION. Decoding (spec R92 to R96): a total function from 32-bit words to a command or `Illegal`, by the
match and mask of each row; then the encoder, written from the same table. -/

namespace Sys2Proof

/-! ## The fields of the one format (R91) -/

/-- Field `c`, bits 23:20. -/
def fieldC (w : Word) : Nat := (w.extractLsb' 20 4).toNat

/-- Field `b`, bit 19. -/
def fieldB (w : Word) : BufSel := if w.getLsbD 19 then .hi else .lo

/-- Bit 16, the one used bit of field `v`. -/
def fieldV (w : Word) : OacVariant := if w.getLsbD 16 then .knee else .tanh

/-- Field `imm`, bits 15:0: a register address. -/
def fieldA (w : Word) : BitVec 16 := w.extractLsb' 0 16

/-- `imm[5:0]`, the unit mask of `RESET`. -/
def fieldM (w : Word) : BitVec 6 := w.extractLsb' 0 6

/-- `imm[3:0]`, the first section of `BQC.RUN`. -/
def fieldF (w : Word) : Nat := (w.extractLsb' 0 4).toNat

/-- `imm[11:8]`, the last section of `BQC.RUN`. -/
def fieldL (w : Word) : Nat := (w.extractLsb' 8 4).toNat

/-! ## The opcode table (R92) -/

/-- A row of the opcode table: a word w spells the command when `w &&& mask = pattern`. -/
structure OpRow where
  mask : Word
  pattern : Word
  command : Word → Instr

/-- The fourteen rows of R92, in the table's order. -/
def opRows : List OpRow :=
  [ ⟨0xFFFFFFFF#32, 0x00000000#32, fun _ => .nop⟩,
    ⟨0xFFFFFFFF#32, 0x01000000#32, fun _ => .prepare⟩,
    ⟨0xFFFFFFC0#32, 0x02000000#32, fun w => .reset (fieldM w)⟩,
    ⟨0xFFFF0000#32, 0x03000000#32, fun w => .wreg (fieldA w)⟩,
    ⟨0xFFFF0000#32, 0x04000000#32, fun w => .rreg (fieldA w)⟩,
    ⟨0xFF07FFFF#32, 0x05000000#32, fun w => .ldblk (fieldC w) (fieldB w)⟩,
    ⟨0xFF07FFFF#32, 0x06000000#32, fun w => .stblk (fieldC w) (fieldB w)⟩,
    ⟨0xFF07FFFF#32, 0x10000000#32, fun w => .lwsRun (fieldC w) (fieldB w)⟩,
    ⟨0xFF0FFFFF#32, 0x11080000#32, fun w => .dwsRun (fieldC w)⟩,
    ⟨0xFF06FFFF#32, 0x12000000#32, fun w => .oacRun (fieldC w) (fieldB w) (fieldV w)⟩,
    ⟨0xFF0FFFFF#32, 0x13080000#32, fun w => .triRun (fieldC w)⟩,
    ⟨0xFF0FFFFF#32, 0x14000000#32, fun w => .ovsUp (fieldC w)⟩,
    ⟨0xFF0FFFFF#32, 0x15000000#32, fun w => .ovsDown (fieldC w)⟩,
    ⟨0xFF07F0F0#32, 0x16000000#32, fun w => .bqcRun (fieldC w) (fieldB w) (fieldF w) (fieldL w)⟩ ]

/-- The row's pattern is in the word. -/
def OpRow.hits (r : OpRow) (w : Word) : Bool := w &&& r.mask == r.pattern

/-- No word hits both rows: they differ in a bit that both masks keep (R92: "The patterns are disjoint"). -/
def OpRow.apart (r q : OpRow) : Bool := r.pattern &&& q.mask != q.pattern &&& r.mask

/-- Why a word is no command. The names are the model's (log 17); the block answers each with `ILLEGAL_CMD` (R96). -/
inductive Illegal where
  /-- An `op` value that R92 does not list (0x07 to 0x0F, 0x17 to 0xFF). -/
  | unlistedOpcode
  /-- A listed `op`; an unused field is not zero, or `DWS.RUN` or `TRI.RUN` names `BUFLO`. -/
  | badField
  deriving DecidableEq, Repr

/-- The name of the rejection of a word that hits no row (R96). -/
def illegalReason (w : Word) : Illegal :=
  if opRows.any (fun r => r.pattern.extractLsb' 24 8 == w.extractLsb' 24 8) then .badField else .unlistedOpcode

/-- `decode` of R93: the command of the row the word hits, else `Illegal`. It looks at the word alone. -/
def decode (w : Word) : Except Illegal Instr :=
  match opRows.find? (fun r => r.hits w) with
  | some r => .ok (r.command w)
  | none => .error (illegalReason w)

/-! ## The encoder (R91, R92) -/

/-- Bit `b` of a buffer select. -/
def BufSel.bit : BufSel → Nat
  | .lo => 0
  | .hi => 1

/-- Bit `v[16]` of a variant. -/
def OacVariant.bit : OacVariant → Nat
  | .tanh => 0
  | .knee => 1

/-- The word of the format: op 31:24, c 23:20, b 19, v 18:16, imm 15:0 (R91). -/
def cmdWord (op c b v imm : Nat) : Word :=
  BitVec.ofNat 32 (op * 2 ^ 24 + c * 2 ^ 20 + b * 2 ^ 19 + v * 2 ^ 16 + imm)

/-- The command word of a well-formed instruction (R92). -/
def encode : Instr → Word
  | .nop => cmdWord 0x00 0 0 0 0
  | .prepare => cmdWord 0x01 0 0 0 0
  | .reset m => cmdWord 0x02 0 0 0 m.toNat
  | .wreg a => cmdWord 0x03 0 0 0 a.toNat
  | .rreg a => cmdWord 0x04 0 0 0 a.toNat
  | .ldblk c b => cmdWord 0x05 c b.bit 0 0
  | .stblk c b => cmdWord 0x06 c b.bit 0 0
  | .lwsRun c b => cmdWord 0x10 c b.bit 0 0
  | .dwsRun c => cmdWord 0x11 c 1 0 0
  | .oacRun c b v => cmdWord 0x12 c b.bit v.bit 0
  | .triRun c => cmdWord 0x13 c 1 0 0
  | .ovsUp c => cmdWord 0x14 c 0 0 0
  | .ovsDown c => cmdWord 0x15 c 0 0 0
  | .bqcRun c b f l => cmdWord 0x16 c b.bit 0 (l * 2 ^ 8 + f)

/-- The instruction of an opcode-table row: the low `nbits` bits of w, every bit above them 0. A command is one word and
no space of the block has a byte order (R71, R90), so the word goes to the decoder as it is. -/
def decodeTableWord (nbits w : Nat) : Option Instr :=
  match decode (BitVec.ofNat 32 (w % 2 ^ nbits)) with
  | .ok i => some i
  | .error _ => none

end Sys2Proof
end

