-- ==== Sys2Proof/Config.lean ====
section
/-! DEFINITION. What an implementation of the block fixes (spec R6, the open parameters of 92_eei_decisions.md), as one
constant without a body, so that a claim about the machine holds for every instance; and the free values (spec R11,
R74; 93_implementation_defined.md U1, U3). The reference values of R6 are in `Machine/Reference.lean`; the machine does
not use them. -/

namespace Sys2Proof

/-- A finite `Num32` greater than zero, by its place in the order of the words 0x00000001 to 0x7F7FFFFF: no other value
can be written (R6: "finite, > 0"). -/
structure PosNum32 where
  place : Fin 0x7F7FFFFF
  deriving DecidableEq, Repr, Inhabited

/-- The number itself. -/
def PosNum32.num (p : PosNum32) : Num32 := BitVec.ofNat 32 (p.place.val + 1)

/-- A bound of the valid domain of `omega`, by how many words past 1.5 in magnitude it stands, the infinity included:
no other value can be written (R6: "XMIN <= -1.5, XMAX >= 1.5"). -/
structure DomainBound where
  place : Fin 0x3FC00001
  deriving DecidableEq, Repr, Inhabited

/-- The bound as `OMEGA_XMAX`: 1.5 or above. -/
def DomainBound.upper (b : DomainBound) : Num32 := BitVec.ofNat 32 (0x3FC00000 + b.place.val)

/-- The bound as `OMEGA_XMIN`: -1.5 or below. -/
def DomainBound.lower (b : DomainBound) : Num32 := BitVec.ofNat 32 (0xBFC00000 + b.place.val)

/-- One half-band branch: `HBLEN` less one, and the tap words (R6: 1 <= HBLEN <= 32). -/
structure HbBranch where
  lenLess1 : Fin 32
  tap : Vector Num32 32
  deriving DecidableEq, Repr, Inhabited

/-- `HBLEN` of the branch. -/
def HbBranch.len (h : HbBranch) : Nat := h.lenLess1.val + 1

/-- The implementation parameters, one field per row of R6. Each type admits exactly the values the row's constraint
admits; the three requirements that are properties (R145 on `omega`, R155 on DWS, R195 on the taps) are in
`Safety.lean`. -/
structure Params where
  /-- The exponential, of the operand's bit pattern alone (R10). -/
  fexp : Num32 → Num32
  /-- The natural logarithm (R10). -/
  fln : Num32 → Num32
  /-- The hyperbolic tangent (R10). -/
  ftanh : Num32 → Num32
  /-- `OMEGA_EXT`, the approximant outside the polynomial's range (R141, R144). -/
  omegaExt : Num32 → Num32
  eps : PosNum32
  /-- `NCH_MAX` - 1. -/
  nchLess1 : Fin 16
  /-- `BLK_MAX` - 1. -/
  blkLess1 : Fin 65535
  /-- `NSEC` - 1. -/
  nsecLess1 : Fin 16
  /-- `OMEGA_P[0..5]`. -/
  omegaP : Vector Num32 6
  /-- `OMEGA_XMIN`, `OMEGA_XMAX`: read by no command; the domain of R145. -/
  omegaXmin : DomainBound
  omegaXmax : DomainBound
  dcR : PosNum32
  dcC : PosNum32
  dcIs : PosNum32
  dcVt : PosNum32
  ocR1 : PosNum32
  ocR2 : PosNum32
  ocIs : PosNum32
  ocVt : PosNum32
  ocVrail : PosNum32
  ocVsat : PosNum32
  tcMu : PosNum32
  tcK : PosNum32
  tcVb : PosNum32
  tcRp : PosNum32
  tcRk : PosNum32
  tcRg : PosNum32
  tcRo : PosNum32
  tcCi : PosNum32
  tcCk : PosNum32
  tcCo : PosNum32
  /-- `HBLEN[s][d][p]` and `HBTAP[s][d][p][k]`: stage s, direction d (0 up, 1 down), branch p. -/
  hb : Fin 2 → Fin 2 → Fin 2 → HbBranch
  deriving Inhabited

/-- `NCH_MAX`, 1 to 16. -/
def Params.nchMax (P : Params) : Nat := P.nchLess1.val + 1

/-- `BLK_MAX`, 1 to 65535. -/
def Params.blkMax (P : Params) : Nat := P.blkLess1.val + 1

/-- `NSEC`, 1 to 16. -/
def Params.nsec (P : Params) : Nat := P.nsecLess1.val + 1

/-- `HBLEN[s][d][p]`, 1 to 32. -/
def Params.hblen (P : Params) (s d p : Fin 2) : Nat := (P.hb s d p).len

/-- `UPLEN[s]` = max(`HBLEN[s][0][0]`, `HBLEN[s][0][1]`) (R45). -/
def Params.uplen (P : Params) (s : Fin 2) : Nat := max (P.hblen s 0 0) (P.hblen s 0 1)

/-- `OMEGA_T`, 1.5: fixed by the spec and no parameter (R36). -/
def omegaT : Num32 := 0x3FC00000#32

/-- The parameters of THE instance: nothing but their types is known of them (log 1). -/
opaque Config.params : Params

/-- The bits a produced NaN takes its sign and payload from, drawn at the place `d` (R11, U3; log 2). -/
opaque Config.freeNanBits : Draw → BitVec 32

/-- What a buffer cell that nothing has written since `PREPARE` reads as, drawn at each read (R74, U1; log 3). -/
opaque Config.freeSample : Draw → Num32

end Sys2Proof
end

