-- ==== Sys2Proof/Machine/Float.lean ====
section
/-! DEFINITION. Binary32 arithmetic (spec R8 to R12): each operation takes the exact real result, then rounds once, to
nearest, ties to even. A finite number is a whole count of units of 2^-149 (the smallest subnormal), so exact results
are fractions of naturals in that unit and no corner hides in the middle.

Every operation that can produce a NaN takes a `Draw`: the NaN's sign and payload are a free value (R11; log 2). -/

namespace Sys2Proof.Machine

/-! ## The fields and classes of a word (R8) -/

/-- The sign, bit 31. -/
def signOf (a : Num32) : Bool := a.msb

/-- The exponent field, bits 30:23. -/
def expField (a : Num32) : Nat := a.toNat / 2 ^ 23 % 256

/-- The fraction field, bits 22:0. -/
def fracField (a : Num32) : Nat := a.toNat % 2 ^ 23

def isNan (a : Num32) : Bool := expField a == 255 && fracField a != 0

def isInf (a : Num32) : Bool := expField a == 255 && fracField a == 0

def isZero (a : Num32) : Bool := expField a == 0 && fracField a == 0

/-- Neither a NaN nor an infinity (R12). -/
def finite (a : Num32) : Bool := expField a != 255

/-- The magnitude in units of 2^-149: exact for a finite number; an infinity gets 2^277, above every finite one. -/
def units (a : Num32) : Nat :=
  if expField a = 0 then fracField a else (2 ^ 23 + fracField a) * 2 ^ (expField a - 1)

/-- The value in units of 2^-149, with its sign; the two zeros are both 0. -/
def signedUnits (a : Num32) : Int := if signOf a then -(units a : Int) else (units a : Int)

/-- The value of a finite number, in units of 2^-149, as a fraction of one: `value a = signedUnits a / 2^149`. -/
def valueDen : Nat := 2 ^ 149

/-! ## Rounding (R8) -/

/-- n/d to the nearest whole number, ties to even. -/
def roundQuot (n d : Nat) : Nat :=
  let q := n / d
  let r := n % d
  if 2 * r < d then q else if d < 2 * r then q + 1 else q + q % 2

/-- The bits 30:0 of n/d units of 2^-149, rounded to nearest even; at or above 2^128 they are those of infinity. The
spacing of the numbers around n/d is 2^shift units, and the carry of a significand that rounds up to 2^24 goes into the
exponent field by the sum. -/
def roundMag (n d : Nat) : Nat :=
  let shift := Nat.log2 (n / d) - 23
  min (shift * 2 ^ 23 + roundQuot n (d * 2 ^ shift)) 0x7F800000

/-- The word of a sign and bits 30:0. -/
def pack (s : Bool) (mag : Nat) : Num32 := BitVec.ofNat 32 ((if s then 2 ^ 31 else 0) + mag)

/-- The infinity of a sign. -/
def infinity (s : Bool) : Num32 := pack s 0x7F800000

/-- The zero of a sign. -/
def zeroOf (s : Bool) : Num32 := pack s 0

/-- An exact nonzero whole number of units, rounded. -/
def roundUnits (z : Int) : Num32 := pack (decide (z < 0)) (roundMag z.natAbs 1)

/-! ## NaN results (R11) -/

/-- Some NaN: its sign and its payload (1 to 2^23 - 1) are free, and every NaN pattern is one of them (R11, U3). -/
def freeNan (d : Draw) : Num32 :=
  pack (Config.freeNanBits d).msb (0x7F800000 + 1 + (Config.freeNanBits d).toNat % (2 ^ 23 - 1))

/-- A result, or some NaN where the operation is invalid or has a NaN operand. -/
def orNan (d : Draw) (r : Option Num32) : Num32 := r.getD (freeNan d)

/-- The result of a configuration function: a NaN it returns is some NaN, whatever pattern the function gave (U3). -/
def redrawNan (d : Draw) (y : Num32) : Num32 := if isNan y then freeNan d else y

/-! ## The exact helpers (R12) -/

/-- `abs`: bit 31 cleared. -/
def fabs (a : Num32) : Num32 := a &&& 0x7FFFFFFF#32

/-- `neg`: bit 31 inverted. -/
def fneg (a : Num32) : Num32 := a ^^^ 0x80000000#32

/-- `a < b`; false with a NaN operand (R11). -/
def flt (a b : Num32) : Bool := !isNan a && !isNan b && decide (signedUnits a < signedUnits b)

/-- `a == b`; false with a NaN operand; +0.0 == -0.0. -/
def feq (a b : Num32) : Bool := !isNan a && !isNan b && decide (signedUnits a = signedUnits b)

/-- `fmin(a, b)`: b if b < a, else a; a NaN in a is returned. -/
def fmin (a b : Num32) : Num32 := if flt b a then b else a

/-- `fmax(a, b)`: b if b > a, else a; a NaN in a is returned. -/
def fmax (a b : Num32) : Num32 := if flt a b then b else a

/-- `signed(p, m)`. -/
def fsigned (p m : Num32) : Num32 :=
  if flt posZero p then m
  else if flt p posZero then fneg m
  else if feq p posZero then posZero
  else p

/-- `num(k)`, the number equal to k; exact for k <= 2^24. -/
def numOf (k : Nat) : Num32 := pack false (roundMag (k * 2 ^ 149) 1)

/-! ## The operations (R8); `none` is an invalid operation or a NaN operand

Signed zeros and infinities follow IEEE 754 (log 11). -/

/-- The exact sum, rounded once. -/
def add? (a b : Num32) : Option Num32 :=
  if isNan a || isNan b then none
  else if isInf a then (if isInf b && (signOf a != signOf b) then none else some a)
  else if isInf b then some b
  else if signedUnits a + signedUnits b = 0 then some (zeroOf (signOf a && signOf b))
  else some (roundUnits (signedUnits a + signedUnits b))

/-- The exact product, rounded once. -/
def mul? (a b : Num32) : Option Num32 :=
  let s := signOf a != signOf b
  if isNan a || isNan b then none
  else if isInf a || isInf b then (if isZero a || isZero b then none else some (infinity s))
  else some (pack s (roundMag (units a * units b) (2 ^ 149)))

/-- The exact quotient, rounded once. -/
def div? (a b : Num32) : Option Num32 :=
  let s := signOf a != signOf b
  if isNan a || isNan b then none
  else if isInf a then (if isInf b then none else some (infinity s))
  else if isInf b then some (zeroOf s)
  else if isZero b then (if isZero a then none else some (infinity s))
  else some (pack s (roundMag (units a * 2 ^ 149) (units b)))

/-- The whole part of the square root of n, when it is below 2^bits + root: the bits are tried from the highest down. -/
def natSqrtFrom (n : Nat) : Nat → Nat → Nat
  | 0, root => root
  | bits + 1, root =>
    natSqrtFrom n bits (if (root + 2 ^ bits) * (root + 2 ^ bits) ≤ n then root + 2 ^ bits else root)

/-- The whole part of the square root of n, for n below 2^426. -/
def natSqrt (n : Nat) : Nat := natSqrtFrom n 213 0

/-- The correctly rounded square root (R8). The root of u units is sqrt(u * 2^149) units, at least 2^74, so a half added
for a root that is not whole lies on the same side of every rounding boundary as the root itself. -/
def sqrt? (a : Num32) : Option Num32 :=
  if isNan a then none
  else if isZero a then some a
  else if signOf a then none
  else if isInf a then some a
  else
    let n := units a * 2 ^ 149
    let r := natSqrt n
    some (pack false (if r * r = n then roundMag r 1 else roundMag (2 * r + 1) 2))

/-- `a + b`. -/
def fadd (d : Draw) (a b : Num32) : Num32 := orNan d (add? a b)

/-- `a - b`. -/
def fsub (d : Draw) (a b : Num32) : Num32 := orNan d (add? a (fneg b))

/-- `a * b`. -/
def fmul (d : Draw) (a b : Num32) : Num32 := orNan d (mul? a b)

/-- `a / b`. -/
def fdiv (d : Draw) (a b : Num32) : Num32 := orNan d (div? a b)

/-- `fsqrt(a)`. -/
def fsqrt (d : Draw) (a : Num32) : Num32 := orNan d (sqrt? a)

/-- The guarded division `n / (m + EPS)`: every division of the spec has this form (R13). -/
def gdiv (P : Params) (d : Draw) (n m : Num32) : Num32 := fdiv (0 :: d) n (fadd (1 :: d) m P.eps.num)

/-! ## The configuration functions (R10) -/

def fexpOf (P : Params) (d : Draw) (x : Num32) : Num32 := redrawNan d (P.fexp x)

def flnOf (P : Params) (d : Draw) (x : Num32) : Num32 := redrawNan d (P.fln x)

def ftanhOf (P : Params) (d : Draw) (x : Num32) : Num32 := redrawNan d (P.ftanh x)

/-! ## The constants the formulas name -/

/-- 2.0 -/
def numTwo : Num32 := 0x40000000#32

/-- 3.0 -/
def numThree : Num32 := 0x40400000#32

/-- 4.0 -/
def numFour : Num32 := 0x40800000#32

/-- 0.5 -/
def numHalf : Num32 := 0x3F000000#32

end Sys2Proof.Machine
end

