-- ==== Sys2Proof/Machine/State.lean ====
section
/-! DEFINITION. The state of the block, as plain data: everything spec 10_state.md names (R20 to R55), the three streams
(R50), the two reasons the model stops, and the state after hardware reset (R240). -/

namespace Sys2Proof.Machine

/-- The eight causes of a recorded fault (R211). A cause is data of the block (its code goes to `FAULT`); it does not
stop the model. -/
inductive FaultCode where
  | illegalCmd
  | notPrepared
  | badConfig
  | badChannel
  | badLength
  | badAddr
  | roWrite
  | badSection
  deriving DecidableEq, Repr

/-- The six processing units, in the bit order of `BYPASS` and of `RESET`'s mask (R27, R94). -/
inductive UnitId where
  | lws
  | dws
  | oac
  | tri
  | ovs
  | bqc
  deriving DecidableEq, Repr

/-- The reasons the MODEL stops without a next state. Neither is a fault of the block: those are next states (R212). -/
inductive Fault where
  /-- Raised by a command whose checks pass while `din` holds fewer words than it needs: the command is not enabled and
  the run is stuck until the host appends words; nothing of the command is done (R116, U9). Safe (log 5). -/
  | waitingForDin
  /-- Raised by the step when the command port is empty: the run has ended (R19). Safe (log 6). -/
  | endOfCommands
  deriving DecidableEq, Repr

/-- No command of this model is refused; the one constructor is the host's. -/
inductive Refusal where
  /-- An instruction without a meaning in this model. Raised by no arm. Safe. -/
  | notModelled (mnemonic : String)
  deriving DecidableEq, Repr

/-- A sample memory of one channel, `BUFLO[c]` or `BUFHI[c]` (R49): the written cells, by index, in ONE canonical form:
indices strictly rising. A cell that is not listed holds no value anyone may assume (R74), so no listed cell equals
what an unlisted one reads as, and equal memories are equal lists. -/
abbrev Memory := List (Nat × Num32)

/-- The DWS derived constants, 0x0208 to 0x020C (R38). -/
structure DwsConsts where
  a : Num32
  b : Num32
  q0 : Num32
  l : Num32
  ivt : Num32
  deriving DecidableEq, Repr, Inhabited

/-- The OAC derived constants, 0x0308 to 0x0311 (R41). -/
structure OacConsts where
  ga : Num32
  rr : Num32
  q0 : Num32
  l : Num32
  ivt : Num32
  xk : Num32
  c1 : Num32
  c2 : Num32
  c3 : Num32
  ivs : Num32
  deriving DecidableEq, Repr, Inhabited

/-- The TRI derived constants, 0x0410 to 0x041F (R43). -/
structure TriConsts where
  kg : Num32
  kk : Num32
  r0k : Num32
  ap0 : Num32
  kps : Num32
  r0p : Num32
  ko : Num32
  kso : Num32
  rt : Num32
  rpk : Num32
  imu : Num32
  sk0 : Num32
  so0 : Num32
  idc : Num32
  ak0 : Num32
  i0 : Num32
  deriving DecidableEq, Repr, Inhabited

/-- The coefficients of one biquad section, `BQ_B0` to `BQ_A2` (R47). -/
structure Biquad where
  b0 : Num32
  b1 : Num32
  b2 : Num32
  a1 : Num32
  a2 : Num32
  deriving DecidableEq, Repr, Inhabited

/-- The state of one biquad section on one channel, `BS_X1`, `BS_X2`, `BS_Y1`, `BS_Y2` (R48). -/
structure BiquadState where
  x1 : Num32
  x2 : Num32
  y1 : Num32
  y2 : Num32
  deriving DecidableEq, Repr, Inhabited

/-- The triode state of one channel, `TS_SI`, `TS_SK`, `TS_SO` (R44). -/
structure TriState where
  si : Num32
  sk : Num32
  so : Num32
  deriving DecidableEq, Repr, Inhabited

/-- The histories of one oversampler stage on one channel, index 0 the newest (R46). The longest a parameter allows, 32
cells, are held; the spec's cells are those below `UPLEN[s]`, `HBLEN[s][1][0]` and `HBLEN[s][1][1]` (log 10). -/
structure OvsStage where
  uph : Vector Num32 32
  dne : Vector Num32 32
  dno : Vector Num32 32
  deriving DecidableEq, Repr, Inhabited

/-- Everything one channel has: the units' state and the two sample memories (R39, R44, R46, R48, R49). -/
structure Channel where
  /-- `DS_V[c]`. -/
  dsV : Num32
  /-- `TS_SI[c]`, `TS_SK[c]`, `TS_SO[c]`. -/
  ts : TriState
  /-- `UPH[c][s]`, `DNE[c][s]`, `DNO[c][s]` for s = 0, 1. -/
  ovs : Vector OvsStage 2
  /-- `BS_*[c][j]`; the spec's sections are those below `NSEC` (log 10). -/
  bs : Vector BiquadState 16
  /-- `BUFLO[c]`. -/
  bufLo : Memory
  /-- `BUFHI[c]`. -/
  bufHi : Memory
  deriving DecidableEq, Repr, Inhabited

/-- The state of the block (10_state.md), and the streams of a run (R50). -/
structure State where
  /-- `STATUS.PREPARED`, `STATUS.FAULTED`, `STATUS.NF`; the word's other bits are hardwired 0 (R22). -/
  prepared : Bool
  faulted : Bool
  nf : Bool
  /-- `FAULT[7:0]`; bits 31:8 are hardwired 0 (R23). -/
  fault : BitVec 8
  /-- `FAULTCC` (R24). -/
  faultCc : BitVec 32
  /-- `CC`, the command counter (R26). -/
  cc : BitVec 32
  /-- `BYPASS[5:0]` (R27). -/
  bypass : BitVec 6
  /-- `BLKLEN[15:0]` (R28). -/
  blklen : BitVec 16
  /-- `CHSEL[3:0]` (R29). -/
  chsel : BitVec 4
  /-- The staged configuration (R30 to R33). -/
  cfgSr : Num32
  cfgMaxblk : BitVec 16
  cfgNch : BitVec 5
  cfgOsf : BitVec 3
  /-- The configuration in force (R34). -/
  actSr : Num32
  actMaxblk : BitVec 16
  actNch : BitVec 5
  actOsf : BitVec 3
  /-- `FS_PROC` (R35). -/
  fsProc : Num32
  /-- The derived constants `DK_*`, `OK_*`, `TK_*` (R38, R41, R43). -/
  dk : DwsConsts
  ok : OacConsts
  tk : TriConsts
  /-- `BQ_*[j]`; the spec's sections are those below `NSEC` (R47; log 10). -/
  bq : Vector Biquad 16
  /-- The channels; the spec's are those below `NCH_MAX` (log 10). -/
  chans : Vector Channel 16
  /-- The command port: the words the host has given and the sequencer has not taken (R50; log 7). -/
  cmds : List Word
  /-- The data-in stream: the words the host has given and no command has consumed (R50; log 7). -/
  din : List Word
  /-- The data-out stream: every word pushed since hardware reset that the host has not taken, oldest first (R50;
  log 7). -/
  dout : List Word
  /-- The MODEL's own field: how many command words have been taken, without the wrap of `CC`; it keys the free values
  (log 4). -/
  draws : Nat
  deriving DecidableEq, Repr

/-- The derived constants before any `PREPARE`: +0.0 each (R240). -/
def DwsConsts.reset : DwsConsts := ⟨posZero, posZero, posZero, posZero, posZero⟩

def OacConsts.reset : OacConsts :=
  ⟨posZero, posZero, posZero, posZero, posZero, posZero, posZero, posZero, posZero, posZero⟩

def TriConsts.reset : TriConsts :=
  ⟨posZero, posZero, posZero, posZero, posZero, posZero, posZero, posZero,
   posZero, posZero, posZero, posZero, posZero, posZero, posZero, posZero⟩

/-- The identity section (1.0, 0, 0, 0, 0) (R47, R202). -/
def Biquad.identity : Biquad := ⟨numOne, posZero, posZero, posZero, posZero⟩

def BiquadState.reset : BiquadState := ⟨posZero, posZero, posZero, posZero⟩

def TriState.reset : TriState := ⟨posZero, posZero, posZero⟩

def OvsStage.reset : OvsStage :=
  ⟨Vector.replicate 32 posZero, Vector.replicate 32 posZero, Vector.replicate 32 posZero⟩

/-- A channel after hardware reset: every state cell +0.0, no buffer cell written (R240). -/
def Channel.reset : Channel where
  dsV := posZero
  ts := TriState.reset
  ovs := Vector.replicate 2 OvsStage.reset
  bs := Vector.replicate 16 BiquadState.reset
  bufLo := []
  bufHi := []

/-- The machine right after hardware reset (R240). -/
def State.reset : State where
  prepared := false
  faulted := false
  nf := false
  fault := 0
  faultCc := 0
  cc := 0
  bypass := 0
  blklen := 0
  chsel := 0
  cfgSr := posZero
  cfgMaxblk := 0
  cfgNch := 0
  cfgOsf := 0
  actSr := posZero
  actMaxblk := 0
  actNch := 0
  actOsf := 0
  fsProc := posZero
  dk := DwsConsts.reset
  ok := OacConsts.reset
  tk := TriConsts.reset
  bq := Vector.replicate 16 Biquad.identity
  chans := Vector.replicate 16 Channel.reset
  cmds := []
  din := []
  dout := []
  draws := 0

end Sys2Proof.Machine
end

