-- ==== Sys2Proof/Machine/Ops.lean ====
section
/-! DEFINITION. The named operations over the sample memories, the channels and the streams; recording a fault, the
whole of the block's exception entry (spec R212; there is no return from it, R214); and the sequencer's treatment of
one command (R110). -/

namespace Sys2Proof.Machine

/-! ## The sample memories (R49, R70) -/

/-- The value of a written cell; `none` for a cell nothing has written since `PREPARE`. -/
def memGet : Memory → Nat → Option Num32
  | [], _ => none
  | (j, x) :: rest, i => if i = j then some x else memGet rest i

/-- Write one cell, keeping the indices strictly rising. -/
def memSet : Memory → Nat → Num32 → Memory
  | [], i, v => [(i, v)]
  | (j, x) :: rest, i, v =>
    if i < j then (i, v) :: (j, x) :: rest
    else if i = j then (i, v) :: rest
    else (j, x) :: memSet rest i v

/-- Write the values one after another, the first at index `start`. -/
def memSetFrom (m : Memory) (start : Nat) : List Num32 → Memory
  | [] => m
  | v :: vs => memSetFrom (memSet m start v) (start + 1) vs

/-- The canonical form of a sample memory: every index is below every later one. -/
def Memory.wf : Memory → Bool
  | [] => true
  | (j, _) :: rest => rest.all (fun e => decide (j < e.1)) && Memory.wf rest

/-! ## Channels (R20, R70) -/

/-- Channel c; a number no channel has reads as a channel after reset (log 13). -/
def State.chan (s : State) (c : Nat) : Channel := s.chans.getD c Channel.reset

/-- Replace channel c; a number no channel has changes nothing (log 13). -/
def State.setChan (s : State) (c : Nat) (ch : Channel) : State := { s with chans := s.chans.setIfInBounds c ch }

/-- Buffer b of a channel. -/
def Channel.buf (ch : Channel) : BufSel → Memory
  | .lo => ch.bufLo
  | .hi => ch.bufHi

/-- Replace buffer b of a channel. -/
def Channel.setBuf (ch : Channel) (b : BufSel) (m : Memory) : Channel :=
  match b with
  | .lo => { ch with bufLo := m }
  | .hi => { ch with bufHi := m }

/-- `MemRead(b, c, i)`: the written value, or a free value drawn at this read (R74, U1; log 3). -/
def Channel.read (ch : Channel) (d : Draw) (b : BufSel) (i : Nat) : Num32 :=
  (memGet (ch.buf b) i).getD (Config.freeSample (i :: b.bit :: d))

/-- `MemWrite(b, c, i, v)`. -/
def Channel.write (ch : Channel) (b : BufSel) (i : Nat) (v : Num32) : Channel :=
  ch.setBuf b (memSet (ch.buf b) i v)

/-! ## Resetting unit state (R113, R240) -/

/-- The bit of a unit in `BYPASS` and in `RESET`'s mask (R27, R94). -/
def UnitId.bit : UnitId → Nat
  | .lws => 0
  | .dws => 1
  | .oac => 2
  | .tri => 3
  | .ovs => 4
  | .bqc => 5

/-- The state cells of the units the mask selects, +0.0; LWS and OAC have none (R113). -/
def resetChannel (m : BitVec 6) (ch : Channel) : Channel :=
  { ch with
    dsV := if m.getLsbD UnitId.dws.bit then posZero else ch.dsV
    ts := if m.getLsbD UnitId.tri.bit then TriState.reset else ch.ts
    ovs := if m.getLsbD UnitId.ovs.bit then Vector.replicate 2 OvsStage.reset else ch.ovs
    bs := if m.getLsbD UnitId.bqc.bit then Vector.replicate 16 BiquadState.reset else ch.bs }

/-- `reset_units(m)`: every channel (R113). -/
def resetUnits (m : BitVec 6) (s : State) : State := { s with chans := s.chans.map (resetChannel m) }

/-- Every cell of both buffers of a channel becomes unspecified (R112, R49). -/
def forgetBuffers (ch : Channel) : Channel := { ch with bufLo := [], bufHi := [] }

/-! ## Faults (R211, R212) -/

/-- The code of a cause (R211). -/
def FaultCode.code : FaultCode → BitVec 8
  | .illegalCmd => 1
  | .notPrepared => 2
  | .badConfig => 3
  | .badChannel => 4
  | .badLength => 5
  | .badAddr => 6
  | .roWrite => 7
  | .badSection => 8

/-- `raise Fault(code)`: `FAULTED`, `FAULT` and `FAULTCC` are written, and nothing else (R212). -/
def raiseFault (code : FaultCode) (s : State) : State :=
  { s with faulted := true, fault := code.code, faultCc := s.cc }

/-! ## The sequencer (R110, R116, R214) -/

/-- The end of every command, completed, faulted or discarded: `CC` counts it (R26), and so does the model's own
counter (log 4). -/
def advance (s : State) : State := { s with cc := s.cc + 1, draws := s.draws + 1 }

/-- `execute` of a command that needs `need` words of `din`: not enabled while they are not there (R116). -/
def execute (need : Nat) (body : State → State) (s : State) : Host.Outcome State Fault Refusal :=
  if s.din.length < need then .fault .waitingForDin else .next (advance (body s))

/-- A command in a block that is not faulted: the first failing check is recorded, else the command is executed
(R110). -/
def checkThenExecute (check : Option FaultCode) (need : Nat) (body : State → State) (s : State) :
    Host.Outcome State Fault Refusal :=
  match check with
  | some code => .next (advance (raiseFault code s))
  | none => execute need body s

/-- One step of the block on any command but `RREG`: in the faulted state it is discarded (R110, R214). -/
def command (check : Option FaultCode) (need : Nat) (body : State → State) (s : State) :
    Host.Outcome State Fault Refusal :=
  if s.faulted then .next (advance s) else checkThenExecute check need body s

/-- One step of the block on `RREG`: in the faulted state it still executes when its own checks pass (R110, R214). -/
def readCommand (check : Option FaultCode) (body : State → State) (s : State) : Host.Outcome State Fault Refusal :=
  if s.faulted && check.isSome then .next (advance s) else checkThenExecute check 0 body s

/-- One step of the block on a word that is no command (R96, R110). -/
def illegalCommand (s : State) : Host.Outcome State Fault Refusal := command (some .illegalCmd) 0 id s

/-! ## The streams (R16, R50) -/

/-- The words `din.pop()` takes, `n` times. -/
def dinWords (s : State) (n : Nat) : List Word := s.din.take n

/-- The stream after them. -/
def dropDin (n : Nat) (s : State) : State := { s with din := s.din.drop n }

/-- `dout.push` of the words, in order. -/
def pushDout (ws : List Word) (s : State) : State := { s with dout := s.dout ++ ws }

/-- The next word of the command port and the state without it; `none` when the port is empty (R19, R110). -/
def takeCommand (s : State) : Option (Word × State) :=
  match s.cmds with
  | [] => none
  | w :: rest => some (w, { s with cmds := rest })

/-! ## Where a command draws its free values (log 2, log 3, log 4) -/

/-- The key of everything the running command draws. -/
def State.drawKey (s : State) : Draw := [s.draws]

end Sys2Proof.Machine
end

