-- ==== Sys2Proof/Machine/Flags.lean ====
section
/-! DEFINITION. The flags: the `STATUS` word (spec R22) and what sets `NF` (R218). The block has no arithmetic condition
codes (R25). -/

namespace Sys2Proof.Machine

/-- `STATUS`: bit 0 `PREPARED`, bit 1 `FAULTED`, bit 2 `NF`, bits 31:3 zero (R22). -/
def statusWord (s : State) : Word :=
  BitVec.ofNat 32 (s.prepared.toNat + 2 * s.faulted.toNat + 4 * s.nf.toNat)

/-- Every value of the list is finite. -/
def allFinite (vs : List Num32) : Bool := vs.all finite

def DwsConsts.values (k : DwsConsts) : List Num32 := [k.a, k.b, k.q0, k.l, k.ivt]

def OacConsts.values (k : OacConsts) : List Num32 :=
  [k.ga, k.rr, k.q0, k.l, k.ivt, k.xk, k.c1, k.c2, k.c3, k.ivs]

def TriConsts.values (k : TriConsts) : List Num32 :=
  [k.kg, k.kk, k.r0k, k.ap0, k.kps, k.r0p, k.ko, k.kso, k.rt, k.rpk, k.imu, k.sk0, k.so0, k.idc, k.ak0, k.i0]

def TriState.values (t : TriState) : List Num32 := [t.si, t.sk, t.so]

def BiquadState.values (t : BiquadState) : List Num32 := [t.x1, t.x2, t.y1, t.y2]

/-- The values whose finiteness `PREPARE` records: `FS_PROC`, `DK_*`, `OK_*`, `TK_*` (R112, R218). -/
def derivedValues (s : State) : List Num32 := s.fsProc :: (s.dk.values ++ s.ok.values ++ s.tk.values)

end Sys2Proof.Machine
end

