-- ==== Sys2Proof/Machine/Operands.lean ====
section
/-! DEFINITION. What a command's operands mean: the block length (spec R119), the checks of each kind of operand in
their order (R112, R121, R213), the register map (R21) and its access kinds. -/

namespace Sys2Proof.Machine

/-! ## Block length and the checks of a block command (R119, R121, R213) -/

/-- `LEN(b)`: `BLKLEN` cells of `BUFLO`, `BLKLEN * ACT_OSF` cells of `BUFHI` (R119). -/
def lenOf (s : State) : BufSel → Nat
  | .lo => s.blklen.toNat
  | .hi => s.blklen.toNat * s.actOsf.toNat

/-- The three checks every block command makes, in order (R121, R213). -/
def blockCheck (s : State) (c : Nat) : Option FaultCode :=
  if !s.prepared then some .notPrepared
  else if s.actNch.toNat ≤ c then some .badChannel
  else if s.actMaxblk < s.blklen then some .badLength
  else none

/-- The checks of `BQC.RUN`: the three, then f <= l and l < `NSEC` (R203, R213). -/
def sectionCheck (P : Params) (s : State) (c f l : Nat) : Option FaultCode :=
  match blockCheck s c with
  | some code => some code
  | none => if f ≤ l ∧ l < P.nsec then none else some .badSection

/-- The check of `RESET` (R113). -/
def preparedCheck (s : State) : Option FaultCode := if s.prepared then none else some .notPrepared

/-- `valid_config` (R112). -/
def validConfig (P : Params) (s : State) : Bool :=
  finite s.cfgSr && flt posZero s.cfgSr
    && decide (1 ≤ s.cfgMaxblk.toNat) && decide (s.cfgMaxblk.toNat ≤ P.blkMax)
    && decide (1 ≤ s.cfgNch.toNat) && decide (s.cfgNch.toNat ≤ P.nchMax)
    && (s.cfgOsf == 2#3 || s.cfgOsf == 4#3)

/-- The check of `PREPARE` (R112). -/
def configCheck (P : Params) (s : State) : Option FaultCode := if validConfig P s then none else some .badConfig

/-- The unit's bit of `BYPASS` (R27, R124). -/
def bypassed (s : State) (u : UnitId) : Bool := s.bypass.getLsbD u.bit

/-! ## The register map (R21) -/

/-- Fields of a biquad section's coefficients, by offset (R47). -/
inductive BqField where
  | b0 | b1 | b2 | a1 | a2
  deriving DecidableEq, Repr

/-- Fields of a biquad section's state, by offset (R48). -/
inductive BsField where
  | x1 | x2 | y1 | y2
  deriving DecidableEq, Repr

/-- The registers, by the names of R21. -/
inductive Reg where
  | status | fault | faultCc | cc
  | bypass | blklen | chsel
  | cfgSr | cfgMaxblk | cfgNch | cfgOsf
  | actSr | actMaxblk | actNch | actOsf
  | fsProc | eps
  | omegaP (i : Fin 6) | omegaT
  | dcR | dcC | dcIs | dcVt
  | dkA | dkB | dkQ0 | dkL | dkIvt
  | dsV
  | ocR1 | ocR2 | ocIs | ocVt | ocVrail | ocVsat
  | okGa | okRr | okQ0 | okL | okIvt | okXk | okC1 | okC2 | okC3 | okIvs
  | tcMu | tcK | tcVb | tcRp | tcRk | tcRg | tcRo | tcCi | tcCk | tcCo
  | tkKg | tkKk | tkR0k | tkAp0 | tkKps | tkR0p | tkKo | tkKso
  | tkRt | tkRpk | tkImu | tkSk0 | tkSo0 | tkIdc | tkAk0 | tkI0
  | tsSi | tsSk | tsSo
  | hbtap (s d p : Fin 2) (k : Fin 32)
  | hblen (s d p : Fin 2)
  | uph (s : Fin 2) (k : Fin 32)
  | dne (s : Fin 2) (k : Fin 32)
  | dno (s : Fin 2) (k : Fin 32)
  | bq (j : Fin 16) (f : BqField)
  | bs (j : Fin 16) (g : BsField)
  deriving DecidableEq, Repr

/-- The rows of R21 below 0x0300 that have one address each. -/
def lowRegs : List (Nat × Reg) :=
  [ (0x0000, .status), (0x0001, .fault), (0x0002, .faultCc), (0x0003, .cc),
    (0x0004, .bypass), (0x0005, .blklen), (0x0006, .chsel),
    (0x0008, .cfgSr), (0x0009, .cfgMaxblk), (0x000A, .cfgNch), (0x000B, .cfgOsf),
    (0x000C, .actSr), (0x000D, .actMaxblk), (0x000E, .actNch), (0x000F, .actOsf),
    (0x0010, .fsProc), (0x0011, .eps),
    (0x0100, .omegaP 0), (0x0101, .omegaP 1), (0x0102, .omegaP 2),
    (0x0103, .omegaP 3), (0x0104, .omegaP 4), (0x0105, .omegaP 5), (0x0106, .omegaT),
    (0x0200, .dcR), (0x0201, .dcC), (0x0202, .dcIs), (0x0203, .dcVt),
    (0x0208, .dkA), (0x0209, .dkB), (0x020A, .dkQ0), (0x020B, .dkL), (0x020C, .dkIvt),
    (0x0210, .dsV) ]

/-- The rows of R21 from 0x0300 to 0x03FF. -/
def oacRegs : List (Nat × Reg) :=
  [ (0x0300, .ocR1), (0x0301, .ocR2), (0x0302, .ocIs), (0x0303, .ocVt), (0x0304, .ocVrail), (0x0305, .ocVsat),
    (0x0308, .okGa), (0x0309, .okRr), (0x030A, .okQ0), (0x030B, .okL), (0x030C, .okIvt),
    (0x030D, .okXk), (0x030E, .okC1), (0x030F, .okC2), (0x0310, .okC3), (0x0311, .okIvs) ]

/-- The rows of R21 from 0x0400 to 0x04FF. -/
def triRegs : List (Nat × Reg) :=
  [ (0x0400, .tcMu), (0x0401, .tcK), (0x0402, .tcVb), (0x0403, .tcRp), (0x0404, .tcRk),
    (0x0405, .tcRg), (0x0406, .tcRo), (0x0407, .tcCi), (0x0408, .tcCk), (0x0409, .tcCo),
    (0x0410, .tkKg), (0x0411, .tkKk), (0x0412, .tkR0k), (0x0413, .tkAp0),
    (0x0414, .tkKps), (0x0415, .tkR0p), (0x0416, .tkKo), (0x0417, .tkKso),
    (0x0418, .tkRt), (0x0419, .tkRpk), (0x041A, .tkImu), (0x041B, .tkSk0),
    (0x041C, .tkSo0), (0x041D, .tkIdc), (0x041E, .tkAk0), (0x041F, .tkI0),
    (0x0420, .tsSi), (0x0421, .tsSk), (0x0422, .tsSo) ]

/-- The rows of R21 that have one address each. -/
def fixedRegs : List (Nat × Reg) := lowRegs ++ (oacRegs ++ triRegs)

/-- Offsets 0 to 4 of a section's coefficient row; 5 to 7 are holes (R47). -/
def bqFieldAt : Nat → Option BqField
  | 0 => some .b0
  | 1 => some .b1
  | 2 => some .b2
  | 3 => some .a1
  | 4 => some .a2
  | _ => none

/-- Offsets 0 to 3 of a section's state row (R48). -/
def bsFieldAt : Nat → Option BsField
  | 0 => some .x1
  | 1 => some .x2
  | 2 => some .y1
  | 3 => some .y2
  | _ => none

/-- The row `HBTAP[s][d][p][k]` at 0x0500 + o, o < 0x100: o = 0x40*(2*s+d) + 0x20*p + k (R45). -/
def hbtapAt (P : Params) (o : Nat) : Option Reg :=
  let s := Fin.ofNat 2 (o / 0x80)
  let d := Fin.ofNat 2 (o / 0x40)
  let p := Fin.ofNat 2 (o / 0x20)
  if o % 0x20 < P.hblen s d p then some (.hbtap s d p (Fin.ofNat 32 o)) else none

/-- The row `HBLEN[s][d][p]` at 0x0600 + o, o < 8: o = 2*(2*s+d) + p (R45). -/
def hblenAt (o : Nat) : Reg := .hblen (Fin.ofNat 2 (o / 4)) (Fin.ofNat 2 (o / 2)) (Fin.ofNat 2 o)

/-- A history window at its base + o, o < 0x40: o = 0x20*s + k, k below the history's length (R46). -/
def historyAt (len : Fin 2 → Nat) (reg : Fin 2 → Fin 32 → Reg) (o : Nat) : Option Reg :=
  let s := Fin.ofNat 2 (o / 0x20)
  if o % 0x20 < len s then some (reg s (Fin.ofNat 32 o)) else none

/-- The row of the coefficients at 0x0700 + o, o < 0x80: o = 8*j + f, j < `NSEC` (R47). -/
def bqAt (P : Params) (o : Nat) : Option Reg :=
  if o / 8 < P.nsec then (bqFieldAt (o % 8)).map (Reg.bq (Fin.ofNat 16 (o / 8))) else none

/-- The row of the section state at 0x0780 + o, o < 0x40: o = 4*j + g, j < `NSEC` (R48). -/
def bsAt (P : Params) (o : Nat) : Option Reg :=
  if o / 4 < P.nsec then (bsFieldAt (o % 4)).map (Reg.bs (Fin.ofNat 16 (o / 4))) else none

/-- The rows of R21 that have a range of addresses. -/
def rangedReg (P : Params) (n : Nat) : Option Reg :=
  if n < 0x0500 then none
  else if n < 0x0600 then hbtapAt P (n - 0x0500)
  else if n < 0x0608 then some (hblenAt (n - 0x0600))
  else if n < 0x0640 then none
  else if n < 0x0680 then historyAt P.uplen .uph (n - 0x0640)
  else if n < 0x06C0 then historyAt (fun s => P.hblen s 1 0) .dne (n - 0x0680)
  else if n < 0x0700 then historyAt (fun s => P.hblen s 1 1) .dno (n - 0x06C0)
  else if n < 0x0780 then bqAt P (n - 0x0700)
  else if n < 0x07C0 then bsAt P (n - 0x0780)
  else none

/-- The register at an address; `none` for an unmapped one, holes of the ranged rows among them (R21, R51). -/
def regAt (P : Params) (a : BitVec 16) : Option Reg :=
  match fixedRegs.lookup a.toNat with
  | some r => some r
  | none => rangedReg P a.toNat

/-- The access kinds of R21; a state window is read-only and also checks the channel (R53). -/
inductive RegKind where
  | rw
  | ro
  | roc
  | window
  deriving DecidableEq, Repr

/-- The access kind of a register (R21). -/
def Reg.kind : Reg → RegKind
  | .status | .fault | .faultCc | .cc => .ro
  | .bypass | .blklen | .chsel => .rw
  | .cfgSr | .cfgMaxblk | .cfgNch | .cfgOsf => .rw
  | .actSr | .actMaxblk | .actNch | .actOsf | .fsProc => .ro
  | .eps | .omegaP _ | .omegaT => .roc
  | .dcR | .dcC | .dcIs | .dcVt => .roc
  | .dkA | .dkB | .dkQ0 | .dkL | .dkIvt => .ro
  | .dsV => .window
  | .ocR1 | .ocR2 | .ocIs | .ocVt | .ocVrail | .ocVsat => .roc
  | .okGa | .okRr | .okQ0 | .okL | .okIvt | .okXk | .okC1 | .okC2 | .okC3 | .okIvs => .ro
  | .tcMu | .tcK | .tcVb | .tcRp | .tcRk | .tcRg | .tcRo | .tcCi | .tcCk | .tcCo => .roc
  | .tkKg | .tkKk | .tkR0k | .tkAp0 | .tkKps | .tkR0p | .tkKo | .tkKso => .ro
  | .tkRt | .tkRpk | .tkImu | .tkSk0 | .tkSo0 | .tkIdc | .tkAk0 | .tkI0 => .ro
  | .tsSi | .tsSk | .tsSo => .window
  | .hbtap _ _ _ _ | .hblen _ _ _ => .roc
  | .uph _ _ | .dne _ _ | .dno _ _ => .window
  | .bq _ _ => .rw
  | .bs _ _ => .window

/-- The checks of `WREG a`: mapped, then RW (R114). -/
def writeCheck (P : Params) (a : BitVec 16) : Option FaultCode :=
  match regAt P a with
  | none => some .badAddr
  | some r => if r.kind = .rw then none else some .roWrite

/-- The checks of `RREG a`: mapped; for a window then prepared and `CHSEL < ACT_NCH` (R53, R115). -/
def readCheck (P : Params) (s : State) (a : BitVec 16) : Option FaultCode :=
  match regAt P a with
  | none => some .badAddr
  | some r =>
    if r.kind = .window then
      if !s.prepared then some .notPrepared
      else if s.actNch.toNat ≤ s.chsel.toNat then some .badChannel
      else none
    else none

end Sys2Proof.Machine
end

