-- ==== Sys2Proof/Machine/Registers.lean ====
section
/-! DEFINITION. Reading and writing the registers of the register space (spec R21 to R53): the one place where a
register's width and its hardwired zeros are decided. -/

namespace Sys2Proof.Machine

/-- A coefficient of a section (R47). -/
def Biquad.get (k : Biquad) : BqField → Num32
  | .b0 => k.b0
  | .b1 => k.b1
  | .b2 => k.b2
  | .a1 => k.a1
  | .a2 => k.a2

/-- Replace a coefficient of a section (R47). -/
def Biquad.set (k : Biquad) (f : BqField) (v : Num32) : Biquad :=
  match f with
  | .b0 => { k with b0 := v }
  | .b1 => { k with b1 := v }
  | .b2 => { k with b2 := v }
  | .a1 => { k with a1 := v }
  | .a2 => { k with a2 := v }

/-- A state cell of a section (R48). -/
def BiquadState.get (t : BiquadState) : BsField → Num32
  | .x1 => t.x1
  | .x2 => t.x2
  | .y1 => t.y1
  | .y2 => t.y2

/-- The channel the state windows show (R29, R53). -/
def State.shown (s : State) : Channel := s.chan s.chsel.toNat

/-- `read(a)` of R115: the register's word, the bits above its field zero (R21); for a window the cell of channel
`CHSEL`. -/
def readReg (P : Params) (s : State) : Reg → Word
  | .status => statusWord s
  | .fault => s.fault.setWidth 32
  | .faultCc => s.faultCc
  | .cc => s.cc
  | .bypass => s.bypass.setWidth 32
  | .blklen => s.blklen.setWidth 32
  | .chsel => s.chsel.setWidth 32
  | .cfgSr => s.cfgSr
  | .cfgMaxblk => s.cfgMaxblk.setWidth 32
  | .cfgNch => s.cfgNch.setWidth 32
  | .cfgOsf => s.cfgOsf.setWidth 32
  | .actSr => s.actSr
  | .actMaxblk => s.actMaxblk.setWidth 32
  | .actNch => s.actNch.setWidth 32
  | .actOsf => s.actOsf.setWidth 32
  | .fsProc => s.fsProc
  | .eps => P.eps.num
  | .omegaP i => P.omegaP[i]
  | .omegaT => Sys2Proof.omegaT
  | .dcR => P.dcR.num
  | .dcC => P.dcC.num
  | .dcIs => P.dcIs.num
  | .dcVt => P.dcVt.num
  | .dkA => s.dk.a
  | .dkB => s.dk.b
  | .dkQ0 => s.dk.q0
  | .dkL => s.dk.l
  | .dkIvt => s.dk.ivt
  | .dsV => s.shown.dsV
  | .ocR1 => P.ocR1.num
  | .ocR2 => P.ocR2.num
  | .ocIs => P.ocIs.num
  | .ocVt => P.ocVt.num
  | .ocVrail => P.ocVrail.num
  | .ocVsat => P.ocVsat.num
  | .okGa => s.ok.ga
  | .okRr => s.ok.rr
  | .okQ0 => s.ok.q0
  | .okL => s.ok.l
  | .okIvt => s.ok.ivt
  | .okXk => s.ok.xk
  | .okC1 => s.ok.c1
  | .okC2 => s.ok.c2
  | .okC3 => s.ok.c3
  | .okIvs => s.ok.ivs
  | .tcMu => P.tcMu.num
  | .tcK => P.tcK.num
  | .tcVb => P.tcVb.num
  | .tcRp => P.tcRp.num
  | .tcRk => P.tcRk.num
  | .tcRg => P.tcRg.num
  | .tcRo => P.tcRo.num
  | .tcCi => P.tcCi.num
  | .tcCk => P.tcCk.num
  | .tcCo => P.tcCo.num
  | .tkKg => s.tk.kg
  | .tkKk => s.tk.kk
  | .tkR0k => s.tk.r0k
  | .tkAp0 => s.tk.ap0
  | .tkKps => s.tk.kps
  | .tkR0p => s.tk.r0p
  | .tkKo => s.tk.ko
  | .tkKso => s.tk.kso
  | .tkRt => s.tk.rt
  | .tkRpk => s.tk.rpk
  | .tkImu => s.tk.imu
  | .tkSk0 => s.tk.sk0
  | .tkSo0 => s.tk.so0
  | .tkIdc => s.tk.idc
  | .tkAk0 => s.tk.ak0
  | .tkI0 => s.tk.i0
  | .tsSi => s.shown.ts.si
  | .tsSk => s.shown.ts.sk
  | .tsSo => s.shown.ts.so
  | .hbtap i d p k => (P.hb i d p).tap[k]
  | .hblen i d p => BitVec.ofNat 32 (P.hblen i d p)
  | .uph i k => (s.shown.ovs[i]).uph[k]
  | .dne i k => (s.shown.ovs[i]).dne[k]
  | .dno i k => (s.shown.ovs[i]).dno[k]
  | .bq j f => (s.bq[j]).get f
  | .bs j g => (s.shown.bs[j]).get g

/-- `reg[a] <- w` for an RW register: the low bits that fit the field, the rest ignored (R52, R114). A register that is
not RW keeps its value: `WREG` never reaches it, its check stops first. -/
def writeReg (r : Reg) (w : Word) (s : State) : State :=
  match r with
  | .bypass => { s with bypass := w.setWidth 6 }
  | .blklen => { s with blklen := w.setWidth 16 }
  | .chsel => { s with chsel := w.setWidth 4 }
  | .cfgSr => { s with cfgSr := w }
  | .cfgMaxblk => { s with cfgMaxblk := w.setWidth 16 }
  | .cfgNch => { s with cfgNch := w.setWidth 5 }
  | .cfgOsf => { s with cfgOsf := w.setWidth 3 }
  | .bq j f => { s with bq := s.bq.set j ((s.bq[j]).set f w) }
  | _ => s

end Sys2Proof.Machine
end

