-- ==== Sys2Proof/Machine/Block.lean ====
section
/-! DEFINITION. The shape every `*.RUN` command shares (spec R84, R121, R124): bypass, the loop over the block, and the
record of a non-finite value written (R218). -/

namespace Sys2Proof.Machine

/-- What a processing command works on: one channel and the `NF` flag. -/
structure Work where
  ch : Channel
  nf : Bool
  deriving DecidableEq, Repr

/-- The result of one sample: the channel with the unit's new state, the output, and whether every state cell the
sample wrote was written a finite value. -/
structure Sampled where
  ch : Channel
  y : Num32
  stateFinite : Bool
  deriving DecidableEq, Repr

/-- One turn of the loop of R121: read cell i, compute, write cell i, record a non-finite value. -/
def sampleStep (b : BufSel) (f : Draw → Channel → Num32 → Sampled) (d : Draw) (w : Work) (i : Nat) : Work :=
  let r := f (i :: d) w.ch (w.ch.read d b i)
  { ch := r.ch.write b i r.y
    nf := w.nf || !(finite r.y && r.stateFinite) }

/-- The loop of R121, for i from 0 to len - 1. -/
def runBlock (b : BufSel) (f : Draw → Channel → Num32 → Sampled) (d : Draw) (len : Nat) (w : Work) : Work :=
  (List.range len).foldl (sampleStep b f d) w

/-- Run `job` on channel c and the flag, unless the unit is bypassed, in which case nothing at all is touched (R121,
R124). -/
def processChannel (u : UnitId) (c : Nat) (job : Draw → Work → Work) (s : State) : State :=
  if bypassed s u then s
  else
    let w := job s.drawKey { ch := s.chan c, nf := s.nf }
    { s.setChan c w.ch with nf := w.nf }

/-- The body of a `*.RUN` command (R121). -/
def runUnit (u : UnitId) (c : Nat) (b : BufSel) (f : Draw → Channel → Num32 → Sampled) (s : State) : State :=
  processChannel u c (fun d => runBlock b f d (lenOf s b)) s

end Sys2Proof.Machine
end

