-- ==== Sys2Proof/Machine/Bqc.lean ====
section
/-! DEFINITION. Unit BQC, the cascade of second-order sections (spec R200 to R206): one section, the chain, the
command. -/

namespace Sys2Proof.Machine

/-- The output of one section: direct form I, feedback subtracted, five products and four sums in this order (R201).
DESIGN CHOICE, unsafe: where R205's sentence on zero state and zero input says otherwise, R201 is followed (log 20): a +0.0
input can give -0.0, and a coefficient that is not finite gives a NaN. -/
def sectionOut (k : Biquad) (t : BiquadState) (d : Draw) (x : Num32) : Num32 :=
  let t0 := fmul (0 :: d) k.b0 x
  let t1 := fadd (1 :: d) t0 (fmul (2 :: d) k.b1 t.x1)
  let t2 := fadd (3 :: d) t1 (fmul (4 :: d) k.b2 t.x2)
  let t3 := fsub (5 :: d) t2 (fmul (6 :: d) k.a1 t.y1)
  fsub (7 :: d) t3 (fmul (8 :: d) k.a2 t.y2)

/-- `bq_section(c, j, x)`: the four cells are read before any is written (R201). -/
def sectionNext (k : Biquad) (t : BiquadState) (d : Draw) (x : Num32) : BiquadState × Num32 :=
  let y := sectionOut k t d x
  ({ x1 := x, x2 := t.x1, y1 := y, y2 := t.y1 }, y)

/-- One link of the chain: section j of the channel runs on the value so far (R203). -/
def sectionStep (bq : Vector Biquad 16) (d : Draw) (r : Sampled) (j : Nat) : Sampled :=
  let n := sectionNext (bq.getD j Biquad.identity) (r.ch.bs.getD j BiquadState.reset) (j :: d) r.y
  { ch := { r.ch with bs := r.ch.bs.setIfInBounds j n.1 }
    y := n.2
    stateFinite := r.stateFinite && allFinite n.1.values }

/-- The sections of `f .. l`, ascending; none when l < f (R16, R203). -/
def sectionRange (f l : Nat) : List Nat := (List.range (l + 1 - f)).map (f + ·)

/-- `BQC_sample(c, x)`: the whole chain f..l on one sample (R203). -/
def bqcSample (bq : Vector Biquad 16) (f l : Nat) (d : Draw) (ch : Channel) (x : Num32) : Sampled :=
  (sectionRange f l).foldl (sectionStep bq d) ⟨ch, x, true⟩

/-- `BQC.RUN c, b, f, l` on an instance with the parameters P (R203). -/
def bqcRunOn (P : Params) (c : Nat) (b : BufSel) (f l : Nat) (s : State) : Host.Outcome State Fault Refusal :=
  command (sectionCheck P s c f l) 0 (runUnit .bqc c b (bqcSample s.bq f l)) s

/-- `BQC.RUN c, b, f, l` (R203). -/
def execBqcRun (c : Nat) (b : BufSel) (f l : Nat) (s : State) : Host.Outcome State Fault Refusal :=
  bqcRunOn Config.params c b f l s

end Sys2Proof.Machine
end

