-- ==== Sys2Proof/Machine/Ovs.lean ====
section
/-! DEFINITION. Unit OVS, the polyphase half-band oversampler (spec R185 to R196): the dot product and the history, one
stage up and down, the cascade of two stages, the two commands. -/

namespace Sys2Proof.Machine

/-- `dot(T, H, L)`: the sum from +0.0 up, k ascending, a zero tap included (R186). -/
def ovsDot (d : Draw) (t : HbBranch) (h : Vector Num32 32) : Num32 :=
  (List.range t.len).foldl
    (fun acc k => fadd (0 :: k :: d) acc (fmul (1 :: k :: d) (t.tap.getD k posZero) (h.getD k posZero))) posZero

/-- `push(H, L, x)`: the L newest cells move one place on, x becomes the newest; cells from L on are untouched (R186). -/
def ovsPush (h : Vector Num32 32) (len : Nat) (x : Num32) : Vector Num32 32 :=
  Vector.ofFn fun k : Fin 32 =>
    if len ≤ k.val then h[k] else if k.val = 0 then x else h.getD (k.val - 1) posZero

/-- The first `len` cells, which are the cells a push writes, are finite (R191, R192, R218; log 14). -/
def historyFinite (h : Vector Num32 32) (len : Nat) : Bool :=
  (List.range len).all fun k => finite (h.getD k posZero)

/-- The two stages' histories of one channel, and whether every cell written in this sample got a finite value (R218;
log 14). -/
structure OvsWork where
  stages : Vector OvsStage 2
  written : Bool
  deriving DecidableEq, Repr

/-- `up2(c, s, x)`: one sample in, the even output and then the odd one out (R188). -/
def up2 (P : Params) (d : Draw) (s : Fin 2) (w : OvsWork) (x : Num32) : OvsWork × Num32 × Num32 :=
  let h := ovsPush (w.stages[s]).uph (P.uplen s) x
  ({ stages := w.stages.set s { w.stages[s] with uph := h }
     written := w.written && historyFinite h (P.uplen s) },
   fmul (0 :: d) numTwo (ovsDot (1 :: d) (P.hb s 0 0) h),
   fmul (2 :: d) numTwo (ovsDot (3 :: d) (P.hb s 0 1) h))

/-- `down2(c, s, ue, uo)`: two samples in, one out; uo enters its history after the output is formed (R189). -/
def down2 (P : Params) (d : Draw) (s : Fin 2) (w : OvsWork) (ue uo : Num32) : OvsWork × Num32 :=
  let st := w.stages[s]
  let e := ovsPush st.dne (P.hblen s 1 0) ue
  let y := fadd (0 :: d) (ovsDot (1 :: d) (P.hb s 1 0) e) (ovsDot (2 :: d) (P.hb s 1 1) st.dno)
  let o := ovsPush st.dno (P.hblen s 1 1) uo
  ({ stages := w.stages.set s { st with dne := e, dno := o }
     written := w.written && historyFinite e (P.hblen s 1 0) && historyFinite o (P.hblen s 1 1) }, y)

/-- `up_sample(c, x)`: 2 outputs for factor 2, else 4, in time order (R190; log 13). -/
def upSample (P : Params) (osf : BitVec 3) (d : Draw) (w : OvsWork) (x : Num32) : OvsWork × List Num32 :=
  let a := up2 P (0 :: d) 0 w x
  if osf = 2#3 then (a.1, [a.2.1, a.2.2])
  else
    let b := up2 P (1 :: d) 1 a.1 a.2.1
    let c := up2 P (2 :: d) 1 b.1 a.2.2
    (c.1, [b.2.1, b.2.2, c.2.1, c.2.2])

/-- `down_sample(c, v0, v1 [, v2, v3])`: 2 inputs for factor 2, else 4, in time order (R190; log 13). -/
def downSample (P : Params) (osf : BitVec 3) (d : Draw) (w : OvsWork) (vs : List Num32) : OvsWork × Num32 :=
  if osf = 2#3 then down2 P (0 :: d) 0 w (vs.getD 0 posZero) (vs.getD 1 posZero)
  else
    let m0 := down2 P (1 :: d) 1 w (vs.getD 0 posZero) (vs.getD 1 posZero)
    let m1 := down2 P (2 :: d) 1 m0.1 (vs.getD 2 posZero) (vs.getD 3 posZero)
    down2 P (0 :: d) 0 m1.1 m0.2 m1.2

/-- One turn of the loop of `OVS.UP`: `BUFLO[c][i]` in, `BUFHI[c][f*i ..]` out (R191). -/
def upStep (P : Params) (osf : BitVec 3) (d : Draw) (w : Work) (i : Nat) : Work :=
  let r := upSample P osf (i :: d) ⟨w.ch.ovs, true⟩ (w.ch.read d .lo i)
  let ys := r.2.take osf.toNat
  { ch := { w.ch with
      ovs := r.1.stages
      bufHi := memSetFrom w.ch.bufHi (osf.toNat * i) ys }
    nf := w.nf || !(r.1.written && allFinite ys) }

/-- One turn of the loop of `OVS.DOWN`: `BUFHI[c][f*i ..]` in, `BUFLO[c][i]` out (R192). -/
def downStep (P : Params) (osf : BitVec 3) (d : Draw) (w : Work) (i : Nat) : Work :=
  let vs := (List.range osf.toNat).map fun j => w.ch.read d .hi (osf.toNat * i + j)
  let r := downSample P osf (i :: d) ⟨w.ch.ovs, true⟩ vs
  { ch := { w.ch with
      ovs := r.1.stages
      bufLo := memSet w.ch.bufLo i r.2 }
    nf := w.nf || !(r.1.written && finite r.2) }

/-- The body of `OVS.UP` (R191). -/
def upBlock (P : Params) (c : Nat) (s : State) : State :=
  processChannel .ovs c (fun d w => (List.range s.blklen.toNat).foldl (upStep P s.actOsf d) w) s

/-- The body of `OVS.DOWN` (R192). -/
def downBlock (P : Params) (c : Nat) (s : State) : State :=
  processChannel .ovs c (fun d w => (List.range s.blklen.toNat).foldl (downStep P s.actOsf d) w) s

/-- `OVS.UP c` on an instance with the parameters P (R191). -/
def ovsUpOn (P : Params) (c : Nat) (s : State) : Host.Outcome State Fault Refusal :=
  command (blockCheck s c) 0 (upBlock P c) s

/-- `OVS.DOWN c` on an instance with the parameters P (R192). -/
def ovsDownOn (P : Params) (c : Nat) (s : State) : Host.Outcome State Fault Refusal :=
  command (blockCheck s c) 0 (downBlock P c) s

/-- `OVS.UP c` (R191). -/
def execOvsUp (c : Nat) (s : State) : Host.Outcome State Fault Refusal := ovsUpOn Config.params c s

/-- `OVS.DOWN c` (R192). -/
def execOvsDown (c : Nat) (s : State) : Host.Outcome State Fault Refusal := ovsDownOn Config.params c s

end Sys2Proof.Machine
end

