-- ==== Sys2Proof/Machine/Lws.lean ====
section
/-! DEFINITION. Unit LWS: `omega`, the approximation of W(e^x) (spec R140 to R147), and its command. -/

namespace Sys2Proof.Machine

/-- One Horner step `t * x + p` (R142). -/
def hornerStep (d : Draw) (x t p : Num32) : Num32 := fadd (0 :: d) (fmul (1 :: d) t x) p

/-- `omega_poly`: Horner's rule, highest coefficient first (R142). -/
def omegaPoly (P : Params) (d : Draw) (x : Num32) : Num32 :=
  let t5 := P.omegaP[5]
  let t4 := hornerStep (4 :: d) x t5 P.omegaP[4]
  let t3 := hornerStep (3 :: d) x t4 P.omegaP[3]
  let t2 := hornerStep (2 :: d) x t3 P.omegaP[2]
  let t1 := hornerStep (1 :: d) x t2 P.omegaP[1]
  hornerStep (0 :: d) x t1 P.omegaP[0]

/-- `omega(x)`: the outer approximant where |x| > 1.5, else, and for a NaN, the polynomial (R141). -/
def omega (P : Params) (d : Draw) (x : Num32) : Num32 :=
  if flt omegaT (fabs x) then redrawNan (0 :: d) (P.omegaExt x) else omegaPoly P (1 :: d) x

/-- `LWS_sample(c, x)`: no state (R146). -/
def lwsSample (P : Params) (d : Draw) (ch : Channel) (x : Num32) : Sampled := ⟨ch, omega P d x, true⟩

/-- `LWS.RUN c, b` on an instance with the parameters P (R146). -/
def lwsRunOn (P : Params) (c : Nat) (b : BufSel) (s : State) : Host.Outcome State Fault Refusal :=
  command (blockCheck s c) 0 (runUnit .lws c b (lwsSample P)) s

/-- `LWS.RUN c, b` (R146). -/
def execLwsRun (c : Nat) (b : BufSel) (s : State) : Host.Outcome State Fault Refusal :=
  lwsRunOn Config.params c b s

end Sys2Proof.Machine
end

