-- ==== Sys2Proof/Machine/Dws.lean ====
section
/-! DEFINITION. Unit DWS, the diode clipper (spec R150 to R156): its constants, its sample, its command. -/

namespace Sys2Proof.Machine

/-- The derivation of `DK_*` at the high rate `fs` (R152). -/
def deriveDws (P : Params) (d : Draw) (fs : Num32) : DwsConsts :=
  let ct := fmul (0 :: d) P.dcC.num fs
  let gr := gdiv P (1 :: d) numOne P.dcR.num
  let g := fadd (2 :: d) ct gr
  let ig := gdiv P (3 :: d) numOne g
  let q0 := fmul (6 :: d) P.dcIs.num ig
  let ivt := gdiv P (7 :: d) numOne P.dcVt.num
  { a := fmul (4 :: d) ct ig
    b := fmul (5 :: d) gr ig
    q0 := q0
    ivt := ivt
    l := flnOf P (8 :: d) (fmul (9 :: d) q0 ivt) }

/-- `DWS_sample`: the new output, which is also the new `DS_V`, from the previous one and the input (R153). -/
def dwsNext (P : Params) (k : DwsConsts) (d : Draw) (s u : Num32) : Num32 :=
  let p := fadd (0 :: d) (fmul (1 :: d) k.a s) (fmul (2 :: d) k.b u)
  let q := fadd (3 :: d) (fabs p) k.q0
  let w := omega P (4 :: d) (fadd (5 :: d) (fmul (6 :: d) q k.ivt) k.l)
  let t := fsub (7 :: d) q (fmul (8 :: d) P.dcVt.num w)
  fsigned p (fmax t posZero)

/-- `DWS_sample(c, u)` on the channel (R153). -/
def dwsSample (P : Params) (k : DwsConsts) (d : Draw) (ch : Channel) (u : Num32) : Sampled :=
  let y := dwsNext P k d ch.dsV u
  ⟨{ ch with dsV := y }, y, finite y⟩

/-- `DWS.RUN c` on an instance with the parameters P: always on `BUFHI` (R153). -/
def dwsRunOn (P : Params) (c : Nat) (s : State) : Host.Outcome State Fault Refusal :=
  command (blockCheck s c) 0 (runUnit .dws c .hi (dwsSample P s.dk)) s

/-- `DWS.RUN c` (R153). -/
def execDwsRun (c : Nat) (s : State) : Host.Outcome State Fault Refusal := dwsRunOn Config.params c s

end Sys2Proof.Machine
end

