-- ==== Sys2Proof/Machine/Oac.lean ====
section
/-! DEFINITION. Unit OAC, the op-amp soft clipper (spec R160 to R168): its constants, its two variants, its command. It
has no state (R161). -/

namespace Sys2Proof.Machine

/-- The derivation of `OK_*`; none depends on the sample rate (R162). -/
def deriveOac (P : Params) (d : Draw) : OacConsts :=
  let rr := gdiv P (0 :: d) P.ocR2.num P.ocR1.num
  let ga := fadd (1 :: d) numOne rr
  let q0 := fmul (2 :: d) P.ocR2.num P.ocIs.num
  let ivt := gdiv P (3 :: d) numOne P.ocVt.num
  let kk := fmul (4 :: d) q0 ivt
  let l := flnOf P (5 :: d) kk
  let vkd := fneg (fmul (6 :: d) P.ocVt.num l)
  let xk := fmul (7 :: d) P.ocR1.num
    (fsub (8 :: d) (gdiv P (9 :: d) (fadd (10 :: d) vkd P.ocVt.num) P.ocR2.num) P.ocIs.num)
  let g0 := fadd (11 :: d) numOne (gdiv P (12 :: d) rr (fadd (13 :: d) numOne kk))
  let bigF := fadd (14 :: d) xk vkd
  let bigS := fadd (15 :: d) numOne (fmul (16 :: d) rr numHalf)
  let bigA := fsub (17 :: d) bigF (fmul (18 :: d) g0 xk)
  let bigB := fsub (19 :: d) bigS g0
  let ix := gdiv P (20 :: d) numOne xk
  { ga := ga
    rr := rr
    q0 := q0
    l := l
    ivt := ivt
    xk := xk
    c1 := g0
    c2 := fmul (21 :: d) (fmul (22 :: d)
      (fsub (23 :: d) (fmul (24 :: d) numThree bigA) (fmul (25 :: d) bigB xk)) ix) ix
    c3 := fmul (26 :: d) (fmul (27 :: d) (fmul (28 :: d)
      (fsub (29 :: d) (fmul (30 :: d) bigB xk) (fmul (31 :: d) numTwo bigA)) ix) ix) ix
    ivs := gdiv P (32 :: d) numOne P.ocVsat.num }

/-- `OAC_tanh` (R163). -/
def oacTanh (P : Params) (k : OacConsts) (d : Draw) (x : Num32) : Num32 :=
  let t := fmul (0 :: d) P.ocVsat.num (ftanhOf P (1 :: d) (fmul (2 :: d) (fmul (3 :: d) k.ga x) k.ivs))
  fmax (fmin t P.ocVrail.num) (fneg P.ocVrail.num)

/-- The cubic of `OAC_knee` below the knee, by Horner's rule (R163). -/
def oacCubic (k : OacConsts) (d : Draw) (u : Num32) : Num32 :=
  fmul (0 :: d) (fadd (1 :: d) (fmul (2 :: d) (fadd (3 :: d) (fmul (4 :: d) k.c3 u) k.c2) u) k.c1) u

/-- The omega branch of `OAC_knee`, at and above the knee (R163). -/
def oacOmega (P : Params) (k : OacConsts) (d : Draw) (u : Num32) : Num32 :=
  let q := fadd (0 :: d) (fmul (1 :: d) k.rr u) k.q0
  let w := omega P (2 :: d) (fadd (3 :: d) (fmul (4 :: d) q k.ivt) k.l)
  let t := fsub (5 :: d) q (fmul (6 :: d) P.ocVt.num w)
  fadd (7 :: d) u (fmax t posZero)

/-- `OAC_knee` (R163). -/
def oacKnee (P : Params) (k : OacConsts) (d : Draw) (x : Num32) : Num32 :=
  let u := fabs x
  let r := if flt u k.xk then oacCubic k (0 :: d) u else oacOmega P k (1 :: d) u
  fsigned x (fmin r P.ocVrail.num)

/-- `OAC_sample`: the variant is the command's (R163). -/
def oacValue (P : Params) (k : OacConsts) (v : OacVariant) (d : Draw) (x : Num32) : Num32 :=
  match v with
  | .tanh => oacTanh P k d x
  | .knee => oacKnee P k d x

/-- `OAC_sample(c, x)` on the channel: no state (R161, R163). -/
def oacSample (P : Params) (k : OacConsts) (v : OacVariant) (d : Draw) (ch : Channel) (x : Num32) : Sampled :=
  ⟨ch, oacValue P k v d x, true⟩

/-- `OAC.RUN c, b, v` on an instance with the parameters P (R163). -/
def oacRunOn (P : Params) (c : Nat) (b : BufSel) (v : OacVariant) (s : State) : Host.Outcome State Fault Refusal :=
  command (blockCheck s c) 0 (runUnit .oac c b (oacSample P s.ok v)) s

/-- `OAC.RUN c, b, v` (R163). -/
def execOacRun (c : Nat) (b : BufSel) (v : OacVariant) (s : State) : Host.Outcome State Fault Refusal :=
  oacRunOn Config.params c b v s

end Sys2Proof.Machine
end

