-- ==== Sys2Proof/Machine/Tri.lean ====
section
/-! DEFINITION. Unit TRI, the triode stage (spec R170 to R179): the junction solver, the constants, the sample, the
command. -/

namespace Sys2Proof.Machine

/-- The current of `tri_solve`'s first branch selection: the conducting quadratic root, or cutoff (R174). -/
def triCurrent (P : Params) (d : Draw) (e0 rt : Num32) : Num32 :=
  if flt posZero e0 then
    let g := fmul (0 :: d) (fmul (1 :: d) P.tcK.num rt) e0
    let n := fmul (2 :: d) (fmul (3 :: d) (fmul (4 :: d) numTwo P.tcK.num) e0) e0
    gdiv P (5 :: d) n
      (fadd (6 :: d) (fadd (7 :: d) (fmul (8 :: d) numTwo g) numOne)
        (fsqrt (9 :: d) (fadd (10 :: d) (fmul (11 :: d) numFour g) numOne)))
  else posZero

/-- `tri_solve`, the source's `triode()`: the branch, then the guard on the plate-cathode voltage (R174). -/
def triSolve (P : Params) (d : Draw) (e0 dpk rt rpk : Num32) : Num32 :=
  let cur := triCurrent P (0 :: d) e0 rt
  let vpk := fsub (1 :: d) dpk (fmul (2 :: d) rpk cur)
  if flt vpk posZero then gdiv P (3 :: d) dpk rpk else cur

/-- The derivation of `TK_*` at the high rate `fs` (R173). -/
def deriveTri (P : Params) (d : Draw) (fs : Num32) : TriConsts :=
  let tf := fmul (0 :: d) numTwo fs
  let xg := fmul (1 :: d) (fmul (2 :: d) tf P.tcRg.num) P.tcCi.num
  let kg := gdiv P (3 :: d) xg (fadd (4 :: d) xg numOne)
  let xk := fmul (5 :: d) (fmul (6 :: d) tf P.tcRk.num) P.tcCk.num
  let kk := gdiv P (7 :: d) xk (fadd (8 :: d) xk numOne)
  let r0k := gdiv P (9 :: d) P.tcRk.num (fadd (10 :: d) xk numOne)
  let gco := fmul (11 :: d) tf P.tcCo.num
  let rco := gdiv P (12 :: d) numOne gco
  let rs := fadd (13 :: d) P.tcRo.num rco
  let r0p := gdiv P (14 :: d) (fmul (15 :: d) P.tcRp.num rs) (fadd (16 :: d) P.tcRp.num rs)
  let kpb := fmul (17 :: d) (gdiv P (18 :: d) r0p P.tcRp.num) P.tcVb.num
  let kps := gdiv P (19 :: d) r0p rs
  let ko := gdiv P (20 :: d) P.tcRo.num rs
  let kso := gdiv P (21 :: d) (fmul (22 :: d) numTwo rco) rs
  let imu := gdiv P (23 :: d) numOne P.tcMu.num
  let rpk := fadd (24 :: d) r0p r0k
  let rt := fadd (25 :: d) r0k (fmul (26 :: d) rpk imu)
  let rpk0 := fadd (27 :: d) P.tcRp.num P.tcRk.num
  let rt0 := fadd (28 :: d) P.tcRk.num (fmul (29 :: d) rpk0 imu)
  let idc := triSolve P (30 :: d) (fmul (31 :: d) P.tcVb.num imu) P.tcVb.num rt0 rpk0
  let sk0 := fmul (32 :: d) P.tcRk.num idc
  let so0 := fsub (33 :: d) P.tcVb.num (fmul (34 :: d) P.tcRp.num idc)
  let ak0 := fmul (35 :: d) kk sk0
  let ap0 := fadd (36 :: d) kpb (fmul (37 :: d) kps so0)
  let dpk0 := fsub (38 :: d) ap0 ak0
  let i0 := triSolve P (39 :: d)
    (fadd (40 :: d) (fsub (41 :: d) posZero ak0) (fmul (42 :: d) dpk0 imu)) dpk0 rt rpk
  { kg := kg
    kk := kk
    r0k := r0k
    ap0 := ap0
    kps := kps
    r0p := r0p
    ko := ko
    kso := kso
    rt := rt
    rpk := rpk
    imu := imu
    sk0 := sk0
    so0 := so0
    idc := idc
    ak0 := ak0
    i0 := i0 }

/-- `TRI_sample`: the new state and the output, from the state and the input; all three cells are read before any is
written (R176). -/
def triNext (P : Params) (k : TriConsts) (d : Draw) (t : TriState) (u : Num32) : TriState × Num32 :=
  let ag := fmul (0 :: d) k.kg (fsub (1 :: d) u t.si)
  let ak := fadd (2 :: d) k.ak0 (fmul (3 :: d) k.kk t.sk)
  let ap := fadd (4 :: d) k.ap0 (fmul (5 :: d) k.kps t.so)
  let dpk := fsub (6 :: d) ap ak
  let e0 := fadd (7 :: d) (fsub (8 :: d) ag ak) (fmul (9 :: d) dpk k.imu)
  let cur := triSolve P (10 :: d) e0 dpk k.rt k.rpk
  let di := fsub (11 :: d) cur k.i0
  let dvk := fadd (12 :: d) (fmul (13 :: d) k.kk t.sk) (fmul (14 :: d) k.r0k di)
  let dv := fsub (15 :: d) (fsub (16 :: d) (fmul (17 :: d) k.kps t.so) t.so) (fmul (18 :: d) k.r0p di)
  let y := fmul (19 :: d) k.ko dv
  ({ si := fsub (20 :: d) (fmul (21 :: d) numTwo (fsub (22 :: d) u ag)) t.si
     sk := fsub (23 :: d) (fmul (24 :: d) numTwo dvk) t.sk
     so := fadd (25 :: d) t.so (fmul (26 :: d) k.kso dv) }, y)

/-- `TRI_sample(c, u)` on the channel (R176). -/
def triSample (P : Params) (k : TriConsts) (d : Draw) (ch : Channel) (u : Num32) : Sampled :=
  let r := triNext P k d ch.ts u
  ⟨{ ch with ts := r.1 }, r.2, allFinite r.1.values⟩

/-- `TRI.RUN c` on an instance with the parameters P: always on `BUFHI` (R176). -/
def triRunOn (P : Params) (c : Nat) (s : State) : Host.Outcome State Fault Refusal :=
  command (blockCheck s c) 0 (runUnit .tri c .hi (triSample P s.tk)) s

/-- `TRI.RUN c` (R176). -/
def execTriRun (c : Nat) (s : State) : Host.Outcome State Fault Refusal := triRunOn Config.params c s

end Sys2Proof.Machine
end

