-- ==== Sys2Proof/Machine/Shell.lean ====
section
/-! DEFINITION. The shell commands (spec R111 to R118): `NOP`, `PREPARE`, `RESET`, `WREG`, `RREG`, `LDBLK`, `STBLK`. -/

namespace Sys2Proof.Machine

/-! ## NOP (R111) -/

/-- `NOP`: only `CC` advances (R111). -/
def execNop (s : State) : Host.Outcome State Fault Refusal := command none 0 id s

/-! ## PREPARE (R112) -/

/-- The configuration put in force and the constants derived from it, in the order of R112. -/
def latchAndDerive (P : Params) (s : State) : State :=
  let fs := fmul (0 :: s.drawKey) s.cfgSr (numOf s.cfgOsf.toNat)
  { s with
    actSr := s.cfgSr
    actMaxblk := s.cfgMaxblk
    actNch := s.cfgNch
    actOsf := s.cfgOsf
    fsProc := fs
    dk := deriveDws P (1 :: s.drawKey) fs
    ok := deriveOac P (2 :: s.drawKey)
    tk := deriveTri P (3 :: s.drawKey) fs }

/-- Every section back to the identity (R47, R112). -/
def identityCoefficients (s : State) : State := { s with bq := Vector.replicate 16 Biquad.identity }

/-- Every buffer cell of every channel becomes unspecified (R49, R112). -/
def forgetAllBuffers (s : State) : State := { s with chans := s.chans.map forgetBuffers }

/-- `PREPARED` is set, and `NF` when a derived value is not finite (R112, R218). -/
def markPrepared (s : State) : State :=
  { s with prepared := true, nf := s.nf || !allFinite (derivedValues s) }

/-- The effect of `PREPARE`, in the order of R112. -/
def prepareBody (P : Params) (s : State) : State :=
  markPrepared (forgetAllBuffers (identityCoefficients (resetUnits 0x3F#6 (latchAndDerive P s))))

/-- `PREPARE` on an instance with the parameters P (R112). -/
def prepareOn (P : Params) (s : State) : Host.Outcome State Fault Refusal :=
  command (configCheck P s) 0 (prepareBody P) s

/-- `PREPARE` (R112). -/
def execPrepare (s : State) : Host.Outcome State Fault Refusal := prepareOn Config.params s

/-! ## RESET (R113) -/

/-- `RESET m` (R113). -/
def execReset (m : BitVec 6) (s : State) : Host.Outcome State Fault Refusal :=
  command (preparedCheck s) 0 (resetUnits m) s

/-! ## WREG and RREG (R114, R115) -/

/-- The effect of `WREG a`: one word of `din`, its low bits into the register (R114). -/
def wregBody (P : Params) (a : BitVec 16) (s : State) : State :=
  match regAt P a, s.din with
  | some r, w :: _ => writeReg r w (dropDin 1 s)
  | _, _ => s

/-- `WREG a` on an instance with the parameters P (R114). -/
def wregOn (P : Params) (a : BitVec 16) (s : State) : Host.Outcome State Fault Refusal :=
  command (writeCheck P a) 1 (wregBody P a) s

/-- `WREG a` (R114). -/
def execWreg (a : BitVec 16) (s : State) : Host.Outcome State Fault Refusal := wregOn Config.params a s

/-- The effect of `RREG a`: the register's word is pushed (R115). -/
def rregBody (P : Params) (a : BitVec 16) (s : State) : State :=
  match regAt P a with
  | some r => pushDout [readReg P s r] s
  | none => s

/-- `RREG a` on an instance with the parameters P (R115). -/
def rregOn (P : Params) (a : BitVec 16) (s : State) : Host.Outcome State Fault Refusal :=
  readCommand (readCheck P s a) (rregBody P a) s

/-- `RREG a` (R115). -/
def execRreg (a : BitVec 16) (s : State) : Host.Outcome State Fault Refusal := rregOn Config.params a s

/-! ## LDBLK and STBLK (R117, R118) -/

/-- The effect of `LDBLK c, b`: `LEN(b)` words of `din` into the buffer from index 0 (R117). -/
def ldblkBody (c : Nat) (b : BufSel) (s : State) : State :=
  let ch := s.chan c
  let n := lenOf s b
  dropDin n (s.setChan c (ch.setBuf b (memSetFrom (ch.buf b) 0 (dinWords s n))))

/-- `LDBLK c, b` (R117). -/
def execLdblk (c : Nat) (b : BufSel) (s : State) : Host.Outcome State Fault Refusal :=
  command (blockCheck s c) (lenOf s b) (ldblkBody c b) s

/-- The words `STBLK c, b` pushes: the cells 0 to `LEN(b) - 1` (R118). -/
def storedWords (c : Nat) (b : BufSel) (s : State) : List Word :=
  (List.range (lenOf s b)).map fun i => (s.chan c).read s.drawKey b i

/-- `STBLK c, b` (R118). -/
def execStblk (c : Nat) (b : BufSel) (s : State) : Host.Outcome State Fault Refusal :=
  command (blockCheck s c) 0 (fun s => pushDout (storedWords c b s) s) s

end Sys2Proof.Machine
end

