-- ==== Sys2Proof/Machine/Dispatch.lean ====
section
/-! DEFINITION. The meaning of every command: one arm per constructor of `Instr`. -/

namespace Sys2Proof.Machine

/-- One step of the block on a decoded command (spec R110). -/
def exec (i : Instr) (s : State) : Host.Outcome State Fault Refusal :=
  match i with
  | .nop => Sys2Proof.Machine.execNop s
  | .prepare => Sys2Proof.Machine.execPrepare s
  | .reset m => Sys2Proof.Machine.execReset m s
  | .wreg a => Sys2Proof.Machine.execWreg a s
  | .rreg a => Sys2Proof.Machine.execRreg a s
  | .ldblk c b => Sys2Proof.Machine.execLdblk c b s
  | .stblk c b => Sys2Proof.Machine.execStblk c b s
  | .lwsRun c b => Sys2Proof.Machine.execLwsRun c b s
  | .dwsRun c => Sys2Proof.Machine.execDwsRun c s
  | .oacRun c b v => Sys2Proof.Machine.execOacRun c b v s
  | .triRun c => Sys2Proof.Machine.execTriRun c s
  | .ovsUp c => Sys2Proof.Machine.execOvsUp c s
  | .ovsDown c => Sys2Proof.Machine.execOvsDown c s
  | .bqcRun c b f l => Sys2Proof.Machine.execBqcRun c b f l s

end Sys2Proof.Machine
end

