-- ==== Sys2Proof/Machine/Step.lean ====
section
/-! DEFINITION. One step of the block (spec R110): the next word of the command port is taken, decoded and run. There is
no program counter; `exec` itself advances `CC`. -/

namespace Sys2Proof.Machine

/-- One step (R110). With no command word left the run has ended (R19; log 6). A step that stops takes nothing: the
word stays at the port and its data in `din` (R116). -/
def step (s : State) : Host.Outcome State Fault Refusal :=
  match takeCommand s with
  | none => .fault .endOfCommands
  | some (w, t) =>
    match decode w with
    | .ok i => exec i t
    | .error _ => illegalCommand t

/-- The state with the word as the next one at the command port, ahead of any other: the host's offer of a command
(log 8). -/
def State.withFetchWord (s : State) (nbits w : Nat) : State :=
  { s with cmds := BitVec.ofNat 32 (w % 2 ^ nbits) :: s.cmds }

end Sys2Proof.Machine
end

