-- ==== Sys2Proof/Machine/HostPort.lean ====
section
/-! DEFINITION. What the host can do to the block between two commands (spec R18, R19, R50, R240, R262): it is the
environment of the model, and none of these is a step. -/

namespace Sys2Proof.Machine

/-- The host sends command words; they are taken after those already at the port (R50, R262). -/
def offerCommands (ws : List Word) (s : State) : State := { s with cmds := s.cmds ++ ws }

/-- The host appends words to `din`, which lifts the hold of a waiting command (R116, R262). -/
def offerData (ws : List Word) (s : State) : State := { s with din := s.din ++ ws }

/-- The host takes every word of `dout` (R262). -/
def drain (s : State) : List Word × State := (s.dout, { s with dout := [] })

/-- The reset input is asserted: everything is as R240 says. Only the model's own counter goes on, so that values drawn
before and after the reset stay unrelated (log 4, log 9). -/
def hardwareReset (s : State) : State := { State.reset with draws := s.draws }

end Sys2Proof.Machine
end

