-- ==== Sys2Proof/Machine/Reference.lean ====
section
/-! DEFINITION. The reference instance: the "reference value" column of spec R6 with the reference tables R143, R144,
R187. The machine does not use it (`step` runs on `Config.params`, of which nothing is known); it is the instance the
spec's test vectors are about, and the tests evaluate the units on it.

`refExp`, `refLn` and `refTanh` round a fixed-point value with 512 bits after the point; that this is the correctly
rounded result R10 asks for is not proved (log 18). -/

namespace Sys2Proof.Machine

/-! ## Fixed point with 512 fraction bits -/

/-- One, in fixed point. -/
def fixOne : Nat := 2 ^ 512

/-- The magnitude of a finite number, in fixed point: exact. -/
def fixOf (a : Num32) : Nat := units a * 2 ^ 363

/-- A fixed-point magnitude times 2^k, rounded to a `Num32` of the sign. -/
def numOfFix (s : Bool) (x : Nat) (k : Int) : Num32 :=
  if 0 ≤ k then pack s (roundMag (x * 2 ^ k.toNat) (2 ^ 363)) else pack s (roundMag x (2 ^ (363 + (-k).toNat)))

/-- x^1/1! + x^2/2! + ... from the term given, n terms on. -/
def expTerms (x : Nat) : Nat → Nat → Nat → Nat
  | 0, _, _ => 0
  | n + 1, i, term =>
    let next := term * x / 2 ^ 512 / i
    next + expTerms x n (i + 1) next

/-- e^x for a fixed-point x in [0, 1). -/
def fixExp (x : Nat) : Nat := fixOne + expTerms x 110 1 fixOne

/-- z + z^3/3 + z^5/5 + ... from the power given, n terms on. -/
def atanhTerms (zz : Nat) : Nat → Nat → Nat → Nat
  | 0, _, _ => 0
  | n + 1, i, power => power / i + atanhTerms zz n (i + 2) (power * zz / 2 ^ 512)

/-- ln((1 + z)/(1 - z)) for a fixed-point z in [0, 1/3]. -/
def fixLnRatio (z : Nat) : Nat := 2 * atanhTerms (z * z / 2 ^ 512) 170 1 z

/-- ln 2 = ln((1 + 1/3)/(1 - 1/3)). -/
def fixLn2 : Nat := fixLnRatio (fixOne / 3)

/-- e^x for a fixed-point magnitude x: a mantissa in [1, 2) and a power of two. -/
def fixExpMag (x : Nat) : Nat × Nat := (fixExp (x % fixLn2), x / fixLn2)

/-! ## The reference functions (R10) -/

/-- e^x. -/
def refExp (x : Num32) : Num32 :=
  if isNan x then x
  else if signOf x then
    if units x > 105 * 2 ^ 149 then posZero
    else
      let r := fixExpMag (fixOf x)
      pack false (roundMag (2 ^ 661) (r.1 * 2 ^ r.2))
  else if units x > 90 * 2 ^ 149 then infinity false
  else
    let r := fixExpMag (fixOf x)
    numOfFix false r.1 r.2

/-- ln x: a NaN for a negative, minus infinity for a zero. -/
def refLn (x : Num32) : Num32 :=
  if isNan x then x
  else if isZero x then infinity true
  else if signOf x then 0x7FC00000#32
  else if isInf x then x
  else
    let e := Nat.log2 (units x)
    let m := units x * 2 ^ 512 / 2 ^ e
    let lnM : Int := fixLnRatio ((m - fixOne) * 2 ^ 512 / (m + fixOne))
    let total : Int := lnM + ((e : Int) - 149) * fixLn2
    numOfFix (decide (total < 0)) total.natAbs 0

/-- tanh x = (e^2x - 1)/(e^2x + 1). -/
def refTanh (x : Num32) : Num32 :=
  if isNan x then x
  else if isZero x then x
  else if units x > 20 * 2 ^ 149 then pack (signOf x) 0x3F800000
  else
    let r := fixExpMag (2 * fixOf x)
    let e2 := r.1 * 2 ^ r.2
    pack (signOf x) (roundMag ((e2 - fixOne) * 2 ^ 149) (e2 + fixOne))

/-! ## The reference approximant (R144) -/

/-- One refinement `w - (w - e^(x-w)) / ((w + 1.0) + EPS)` (R144). -/
def omegaRefine (eps x w : Num32) : Num32 :=
  let e := refExp (fsub [] x w)
  fsub [] w (fdiv [] (fsub [] w e) (fadd [] (fadd [] w numOne) eps))

/-- `OMEGA_EXT`: an asymptotic first guess and two refinements (R144). -/
def refOmegaExt (eps x : Num32) : Num32 :=
  let w :=
    if flt posZero x then
      let l := refLn x
      fadd [] (fsub [] x l) (fdiv [] l (fadd [] x eps))
    else refExp x
  omegaRefine eps x (omegaRefine eps x w)

/-! ## The parameters (R6) -/

/-- The positive number of a word in 0x00000001 to 0x7F7FFFFF. -/
def posNumOf (w : Nat) : PosNum32 := ⟨Fin.ofNat 0x7F7FFFFF (w - 1)⟩

/-- A branch of the taps given, the rest of the row zero. -/
def branchOf (taps : List Num32) : HbBranch where
  lenLess1 := Fin.ofNat 32 (taps.length - 1)
  tap := Vector.ofFn fun k : Fin 32 => taps.getD k posZero

/-- The 7-tap half-band filter's even branch: -1/32, 9/32, 9/32, -1/32 (R187). -/
def refEvenBranch : HbBranch := branchOf [0xBD000000#32, 0x3E900000#32, 0x3E900000#32, 0xBD000000#32]

/-- Its odd branch: 0, 1/2 (R187). -/
def refOddBranch : HbBranch := branchOf [0x00000000#32, 0x3F000000#32]

/-- The reference instance (R6). -/
def referenceParams : Params where
  fexp := refExp
  fln := refLn
  ftanh := refTanh
  omegaExt := refOmegaExt 0x3089705F#32
  eps := posNumOf 0x3089705F
  nchLess1 := 1
  blkLess1 := 4095
  nsecLess1 := 7
  omegaP := #v[0x3F1130F7#32, 0x3EB944B7#32, 0x3D96AF35#32, 0xBAA085C7#32, 0xBAC4026A#32, 0x391C73BA#32]
  omegaXmin := ⟨Fin.ofNat 0x3FC00001 (0xC2AE0000 - 0xBFC00000)⟩
  omegaXmax := ⟨Fin.ofNat 0x3FC00001 (0x467A0000 - 0x3FC00000)⟩
  dcR := posNumOf 0x45098000
  dcC := posNumOf 0x322BCC77
  dcIs := posNumOf 0x358637BD
  dcVt := posNumOf 0x3CD4FDF4
  ocR1 := posNumOf 0x4592E000
  ocR2 := posNumOf 0x47C35000
  ocIs := posNumOf 0x3089705F
  ocVt := posNumOf 0x3CD4FDF4
  ocVrail := posNumOf 0x40900000
  ocVsat := posNumOf 0x40900000
  tcMu := posNumOf 0x42C80000
  tcK := posNumOf 0x399D4952
  tcVb := posNumOf 0x437A0000
  tcRp := posNumOf 0x47C35000
  tcRk := posNumOf 0x44BB8000
  tcRg := posNumOf 0x49742400
  tcRo := posNumOf 0x49742400
  tcCi := posNumOf 0x32BCFA83
  tcCk := posNumOf 0x358637BD
  tcCo := posNumOf 0x32BCFA83
  hb := fun _ _ p => if p = 0 then refEvenBranch else refOddBranch

end Sys2Proof.Machine
end

