-- ==== Sys2Proof/Rules.lean ====
section
/-! DEFINITION. What the rules compute for one sample and at `PREPARE`, as relations between the numbers that go in and
those that come out, written from the pseudocode of the spec and naming none of the machine's own unit functions. The
statements say that the machine's results stand in these relations.

Every operation takes its `Draw` from some `e`: which NaN a NaN result is stays open (R11; log 2). -/

namespace Sys2Proof.Machine

/-- Two numbers a program cannot tell apart by the rules alone: the same bits, or both some NaN (R11). -/
def SameNum (a b : Num32) : Prop := a = b ∨ (isNan a = true ∧ isNan b = true)

/-- `n / (m + EPS)`, the form of every division (R13). -/
def guarded (P : Params) (d e : Draw) (n m : Num32) : Num32 := fdiv d n (fadd e m P.eps.num)

/-! ## omega (R141, R142) -/

/-- y is `omega_poly(x)`: Horner's rule, highest coefficient first (R142). -/
def HornerValue (P : Params) (x y : Num32) : Prop :=
  ∃ e : Nat → Draw,
    let t4 := fadd (e 0) (fmul (e 1) P.omegaP[5] x) P.omegaP[4]
    let t3 := fadd (e 2) (fmul (e 3) t4 x) P.omegaP[3]
    let t2 := fadd (e 4) (fmul (e 5) t3 x) P.omegaP[2]
    let t1 := fadd (e 6) (fmul (e 7) t2 x) P.omegaP[1]
    y = fadd (e 8) (fmul (e 9) t1 x) P.omegaP[0]

/-- y is `omega(x)` (R141). -/
def OmegaValue (P : Params) (x y : Num32) : Prop :=
  if flt omegaT (fabs x) then SameNum y (P.omegaExt x) else HornerValue P x y

/-! ## DWS (R152, R153) -/

/-- k is the derivation of `DK_*` at the high rate fs (R152). -/
def DerivedDws (P : Params) (fs : Num32) (k : DwsConsts) : Prop :=
  ∃ e : Nat → Draw,
    let ct := fmul (e 0) P.dcC.num fs
    let gr := guarded P (e 1) (e 2) numOne P.dcR.num
    let g := fadd (e 3) ct gr
    let ig := guarded P (e 4) (e 5) numOne g
    k.a = fmul (e 6) ct ig ∧
    k.b = fmul (e 7) gr ig ∧
    k.q0 = fmul (e 8) P.dcIs.num ig ∧
    k.ivt = guarded P (e 9) (e 10) numOne P.dcVt.num ∧
    SameNum k.l (P.fln (fmul (e 11) k.q0 k.ivt))

/-- y is `DWS_sample` of the state s and the sample u; it is the new state too (R153). -/
def DiodeSample (P : Params) (k : DwsConsts) (s u y : Num32) : Prop :=
  ∃ (e : Nat → Draw) (w : Num32),
    let p := fadd (e 0) (fmul (e 1) k.a s) (fmul (e 2) k.b u)
    let q := fadd (e 3) (fabs p) k.q0
    OmegaValue P (fadd (e 4) (fmul (e 5) q k.ivt) k.l) w ∧
    y = fsigned p (fmax (fsub (e 6) q (fmul (e 7) P.dcVt.num w)) posZero)

/-! ## OAC (R162, R163) -/

/-- k is the derivation of `OK_*` (R162). -/
def DerivedOac (P : Params) (k : OacConsts) : Prop :=
  ∃ e : Nat → Draw,
    let kk := fmul (e 0) k.q0 k.ivt
    let vkd := fneg (fmul (e 1) P.ocVt.num k.l)
    let g0 := fadd (e 2) numOne (guarded P (e 3) (e 4) k.rr (fadd (e 5) numOne kk))
    let bigF := fadd (e 6) k.xk vkd
    let bigS := fadd (e 7) numOne (fmul (e 8) k.rr numHalf)
    let bigA := fsub (e 9) bigF (fmul (e 10) g0 k.xk)
    let bigB := fsub (e 11) bigS g0
    let ix := guarded P (e 12) (e 13) numOne k.xk
    k.rr = guarded P (e 14) (e 15) P.ocR2.num P.ocR1.num ∧
    k.ga = fadd (e 16) numOne k.rr ∧
    k.q0 = fmul (e 17) P.ocR2.num P.ocIs.num ∧
    k.ivt = guarded P (e 18) (e 19) numOne P.ocVt.num ∧
    SameNum k.l (P.fln kk) ∧
    k.xk = fmul (e 20) P.ocR1.num
      (fsub (e 21) (guarded P (e 22) (e 23) (fadd (e 24) vkd P.ocVt.num) P.ocR2.num) P.ocIs.num) ∧
    k.c1 = g0 ∧
    k.c2 = fmul (e 25) (fmul (e 26)
      (fsub (e 27) (fmul (e 28) numThree bigA) (fmul (e 29) bigB k.xk)) ix) ix ∧
    k.c3 = fmul (e 30) (fmul (e 31) (fmul (e 32)
      (fsub (e 33) (fmul (e 34) bigB k.xk) (fmul (e 35) numTwo bigA)) ix) ix) ix ∧
    k.ivs = guarded P (e 36) (e 37) numOne P.ocVsat.num

/-- y is `OAC_tanh(x)` (R163). -/
def TanhSample (P : Params) (k : OacConsts) (x y : Num32) : Prop :=
  ∃ (e : Nat → Draw) (z : Num32),
    SameNum z (P.ftanh (fmul (e 0) (fmul (e 1) k.ga x) k.ivs)) ∧
    y = fmax (fmin (fmul (e 2) P.ocVsat.num z) P.ocVrail.num) (fneg P.ocVrail.num)

/-- y is `OAC_knee(x)` (R163). -/
def KneeSample (P : Params) (k : OacConsts) (x y : Num32) : Prop :=
  ∃ (e : Nat → Draw) (r : Num32),
    let u := fabs x
    (flt u k.xk = true →
      r = fmul (e 0) (fadd (e 1) (fmul (e 2) (fadd (e 3) (fmul (e 4) k.c3 u) k.c2) u) k.c1) u) ∧
    (flt u k.xk = false →
      ∃ w, let q := fadd (e 5) (fmul (e 6) k.rr u) k.q0
        OmegaValue P (fadd (e 7) (fmul (e 8) q k.ivt) k.l) w ∧
        r = fadd (e 9) u (fmax (fsub (e 10) q (fmul (e 11) P.ocVt.num w)) posZero)) ∧
    y = fsigned x (fmin r P.ocVrail.num)

/-- y is `OAC_sample` in the command's variant (R163). -/
def ClipperSample (P : Params) (k : OacConsts) (x y : Num32) : OacVariant → Prop
  | .tanh => TanhSample P k x y
  | .knee => KneeSample P k x y

/-! ## TRI (R173, R174, R176) -/

/-- i is the conducting root at e0 (R174). -/
def ConductingCurrent (P : Params) (e0 rt i : Num32) : Prop :=
  ∃ e : Nat → Draw,
    let g := fmul (e 0) (fmul (e 1) P.tcK.num rt) e0
    let n := fmul (e 2) (fmul (e 3) (fmul (e 4) numTwo P.tcK.num) e0) e0
    i = guarded P (e 5) (e 6) n
      (fadd (e 7) (fadd (e 8) (fmul (e 9) numTwo g) numOne) (fsqrt (e 10) (fadd (e 11) (fmul (e 12) numFour g) numOne)))

/-- j is what the guard makes of the branch's current i (R174). -/
def GuardedCurrent (P : Params) (dpk rpk i j : Num32) : Prop :=
  ∃ e : Nat → Draw,
    let vpk := fsub (e 0) dpk (fmul (e 1) rpk i)
    (flt vpk posZero = true → j = guarded P (e 2) (e 3) dpk rpk) ∧ (flt vpk posZero = false → j = i)

/-- j is `tri_solve(e0, dpk, rt, rpk)` (R174). -/
def JunctionCurrent (P : Params) (e0 dpk rt rpk j : Num32) : Prop :=
  ∃ i, (flt posZero e0 = true → ConductingCurrent P e0 rt i) ∧ (flt posZero e0 = false → i = posZero) ∧
    GuardedCurrent P dpk rpk i j

/-- k is the derivation of `TK_*` at the high rate fs (R173). -/
def DerivedTri (P : Params) (fs : Num32) (k : TriConsts) : Prop :=
  ∃ e : Nat → Draw,
    let tf := fmul (e 0) numTwo fs
    let xg := fmul (e 1) (fmul (e 2) tf P.tcRg.num) P.tcCi.num
    let xk := fmul (e 3) (fmul (e 4) tf P.tcRk.num) P.tcCk.num
    let gco := fmul (e 5) tf P.tcCo.num
    let rco := guarded P (e 6) (e 7) numOne gco
    let rs := fadd (e 8) P.tcRo.num rco
    let kpb := fmul (e 9) (guarded P (e 10) (e 11) k.r0p P.tcRp.num) P.tcVb.num
    let rpk0 := fadd (e 12) P.tcRp.num P.tcRk.num
    let rt0 := fadd (e 13) P.tcRk.num (fmul (e 14) rpk0 k.imu)
    let dpk0 := fsub (e 15) k.ap0 k.ak0
    k.kg = guarded P (e 16) (e 17) xg (fadd (e 18) xg numOne) ∧
    k.kk = guarded P (e 19) (e 20) xk (fadd (e 21) xk numOne) ∧
    k.r0k = guarded P (e 22) (e 23) P.tcRk.num (fadd (e 24) xk numOne) ∧
    k.r0p = guarded P (e 25) (e 26) (fmul (e 27) P.tcRp.num rs) (fadd (e 28) P.tcRp.num rs) ∧
    k.kps = guarded P (e 29) (e 30) k.r0p rs ∧
    k.ko = guarded P (e 31) (e 32) P.tcRo.num rs ∧
    k.kso = guarded P (e 33) (e 34) (fmul (e 35) numTwo rco) rs ∧
    k.imu = guarded P (e 36) (e 37) numOne P.tcMu.num ∧
    k.rpk = fadd (e 38) k.r0p k.r0k ∧
    k.rt = fadd (e 39) k.r0k (fmul (e 40) k.rpk k.imu) ∧
    JunctionCurrent P (fmul (e 41) P.tcVb.num k.imu) P.tcVb.num rt0 rpk0 k.idc ∧
    k.sk0 = fmul (e 42) P.tcRk.num k.idc ∧
    k.so0 = fsub (e 43) P.tcVb.num (fmul (e 44) P.tcRp.num k.idc) ∧
    k.ak0 = fmul (e 45) k.kk k.sk0 ∧
    k.ap0 = fadd (e 46) kpb (fmul (e 47) k.kps k.so0) ∧
    JunctionCurrent P (fadd (e 48) (fsub (e 49) posZero k.ak0) (fmul (e 50) dpk0 k.imu)) dpk0 k.rt k.rpk k.i0

/-- t' and y are the new cells and the output of `TRI_sample` on the cells t and the sample u (R176). -/
def TriodeSample (P : Params) (k : TriConsts) (t : TriState) (u : Num32) (t' : TriState) (y : Num32) : Prop :=
  ∃ (e : Nat → Draw) (cur : Num32),
    let ag := fmul (e 0) k.kg (fsub (e 1) u t.si)
    let ak := fadd (e 2) k.ak0 (fmul (e 3) k.kk t.sk)
    let ap := fadd (e 4) k.ap0 (fmul (e 5) k.kps t.so)
    let dpk := fsub (e 6) ap ak
    let e0 := fadd (e 7) (fsub (e 8) ag ak) (fmul (e 9) dpk k.imu)
    let di := fsub (e 10) cur k.i0
    let dvk := fadd (e 11) (fmul (e 12) k.kk t.sk) (fmul (e 13) k.r0k di)
    let dv := fsub (e 14) (fsub (e 15) (fmul (e 16) k.kps t.so) t.so) (fmul (e 17) k.r0p di)
    JunctionCurrent P e0 dpk k.rt k.rpk cur ∧
    y = fmul (e 18) k.ko dv ∧
    t'.si = fsub (e 19) (fmul (e 20) numTwo (fsub (e 21) u ag)) t.si ∧
    t'.sk = fsub (e 22) (fmul (e 23) numTwo dvk) t.sk ∧
    t'.so = fadd (e 24) t.so (fmul (e 25) k.kso dv)

/-! ## OVS (R186, R188 to R190) -/

/-- y is `dot(T, H, L)` of a branch and a history: from +0.0 up, k ascending (R186). -/
def DotIs (b : HbBranch) (h : Vector Num32 32) (y : Num32) : Prop :=
  ∃ acc : Nat → Num32, acc 0 = posZero ∧ y = acc b.len ∧
    ∀ k, k < b.len → ∃ d e : Draw, acc (k + 1) = fadd d (acc k) (fmul e (b.tap.getD k posZero) (h.getD k posZero))

/-- h' is the history h after `push(H, L, x)` (R186). -/
def Pushed (h : Vector Num32 32) (len : Nat) (x : Num32) (h' : Vector Num32 32) : Prop :=
  h'.getD 0 posZero = x ∧
  (∀ k, k + 1 < len → h'.getD (k + 1) posZero = h.getD k posZero) ∧
  (∀ k, len ≤ k → h'.getD k posZero = h.getD k posZero)

/-- The cells a push of that length has written. -/
def pushedCells (h : Vector Num32 32) (len : Nat) : List Num32 := (List.range len).map fun k => h.getD k posZero

/-- `(ye, yo) <- up2(c, s, x)` takes the stage's histories from g to g' (R188). -/
def UpStage (P : Params) (s : Fin 2) (g : OvsStage) (x : Num32) (g' : OvsStage) (ye yo : Num32) : Prop :=
  Pushed g.uph (P.uplen s) x g'.uph ∧ g'.dne = g.dne ∧ g'.dno = g.dno ∧
  ∃ (a b : Num32) (d e : Draw), DotIs (P.hb s 0 0) g'.uph a ∧ DotIs (P.hb s 0 1) g'.uph b ∧
    ye = fmul d numTwo a ∧ yo = fmul e numTwo b

/-- `y <- down2(c, s, ue, uo)` takes the stage's histories from g to g': uo is pushed after y is formed (R189). -/
def DownStage (P : Params) (s : Fin 2) (g : OvsStage) (ue uo : Num32) (g' : OvsStage) (y : Num32) : Prop :=
  Pushed g.dne (P.hblen s 1 0) ue g'.dne ∧ Pushed g.dno (P.hblen s 1 1) uo g'.dno ∧ g'.uph = g.uph ∧
  ∃ (a b : Num32) (d : Draw), DotIs (P.hb s 1 0) g'.dne a ∧ DotIs (P.hb s 1 1) g.dno b ∧ y = fadd d a b

/-- The history cells one step of a stage down has written. -/
def downCells (P : Params) (s : Fin 2) (g : OvsStage) : List Num32 :=
  pushedCells g.dne (P.hblen s 1 0) ++ pushedCells g.dno (P.hblen s 1 1)

/-- `ys <- up_sample(c, x)` takes the histories from h to h' and writes the history cells ws; with factor 2 stage 1
is not touched, with factor 4 stage 1 runs on the two outputs of stage 0 in time order (R190). -/
def UpSample (P : Params) (factor : BitVec 3) (h : Vector OvsStage 2) (x : Num32) (h' : Vector OvsStage 2)
    (ys ws : List Num32) : Prop :=
  (factor = 2#3 → ∃ a0 a1, UpStage P 0 h[0] x h'[0] a0 a1 ∧ h'[1] = h[1] ∧ ys = [a0, a1] ∧
    ws = pushedCells h'[0].uph (P.uplen 0)) ∧
  (factor = 4#3 → ∃ a0 a1 m b0 b1 b2 b3, UpStage P 0 h[0] x h'[0] a0 a1 ∧
    UpStage P 1 h[1] a0 m b0 b1 ∧ UpStage P 1 m a1 h'[1] b2 b3 ∧ ys = [b0, b1, b2, b3] ∧
    ws = pushedCells h'[0].uph (P.uplen 0) ++ pushedCells m.uph (P.uplen 1) ++ pushedCells h'[1].uph (P.uplen 1))

/-- `y <- down_sample(c, v 0, v 1 [, v 2, v 3])` takes the histories from h to h' and writes the history cells ws
(R190). -/
def DownSample (P : Params) (factor : BitVec 3) (h : Vector OvsStage 2) (v : Nat → Num32) (h' : Vector OvsStage 2)
    (y : Num32) (ws : List Num32) : Prop :=
  (factor = 2#3 → DownStage P 0 h[0] (v 0) (v 1) h'[0] y ∧ h'[1] = h[1] ∧ ws = downCells P 0 h'[0]) ∧
  (factor = 4#3 → ∃ m m0 m1, DownStage P 1 h[1] (v 0) (v 1) m m0 ∧ DownStage P 1 m (v 2) (v 3) h'[1] m1 ∧
    DownStage P 0 h[0] m0 m1 h'[0] y ∧
    ws = downCells P 1 m ++ downCells P 1 h'[1] ++ downCells P 0 h'[0])

/-! ## BQC (R201) -/

/-- y is the output of `bq_section` on the sample x, by R201 also where R205's sentence says otherwise (log 20). -/
def SectionSample (k : Biquad) (t : BiquadState) (x y : Num32) : Prop :=
  ∃ e : Nat → Draw,
    let t0 := fmul (e 0) k.b0 x
    let t1 := fadd (e 1) t0 (fmul (e 2) k.b1 t.x1)
    let t2 := fadd (e 3) t1 (fmul (e 4) k.b2 t.x2)
    let t3 := fsub (e 5) t2 (fmul (e 6) k.a1 t.y1)
    y = fsub (e 7) t3 (fmul (e 8) k.a2 t.y2)

end Sys2Proof.Machine
end

