-- ==== Sys2Proof/Safety.lean ====
section
/-! DEFINITION. The terms claims are made in: a safe state (spec R218), when a command runs, what a command leaves
unchanged, the invariants of the block, what correct rounding is (R8), and the three requirements on an instance's
parameters (R145, R155, R195). -/

namespace Sys2Proof.Machine

/-! ## Safe states (R218) -/

/-- The block's safety predicate: `FAULTED` = 0 and `NF` = 0 (R218). -/
def State.safe (s : State) : Bool := !s.faulted && !s.nf

/-! ## When a command runs -/

/-- The common three checks of a block command on channel c pass, and the block is not faulted (R110, R121). -/
structure ReadyFor (s : State) (c : Nat) : Prop where
  running : s.faulted = false
  prepared : s.prepared = true
  channel : c < s.actNch.toNat
  length : s.blklen.toNat ≤ s.actMaxblk.toNat

/-- Moreover the channel is one the command word can name, and the unit is not bypassed (R91, R124). -/
structure RunsOn (s : State) (c : Nat) (u : UnitId) : Prop extends ReadyFor s c where
  field : c < 16
  enabled : bypassed s u = false

/-- The configuration `PREPARE` accepts (R112). -/
structure ConfigAccepted (P : Params) (s : State) : Prop where
  rateFinite : finite s.cfgSr = true
  ratePositive : flt posZero s.cfgSr = true
  blockLow : 1 ≤ s.cfgMaxblk.toNat
  blockHigh : s.cfgMaxblk.toNat ≤ P.blkMax
  channelsLow : 1 ≤ s.cfgNch.toNat
  channelsHigh : s.cfgNch.toNat ≤ P.nchMax
  factor : s.cfgOsf = 2#3 ∨ s.cfgOsf = 4#3

/-! ## The checks of every command, as the table of R213 lists them -/

/-- The code of the first check that fails. -/
def firstFailing : List (Bool × FaultCode) → Option FaultCode
  | [] => none
  | (fails, code) :: rest => if fails then some code else firstFailing rest

/-- The three checks of a block command, each with whether it fails (R213). -/
def blockChecks (s : State) (c : Nat) : List (Bool × FaultCode) :=
  [ (!s.prepared, .notPrepared),
    (decide (s.actNch.toNat ≤ c), .badChannel),
    (decide (s.actMaxblk.toNat < s.blklen.toNat), .badLength) ]

/-- The address is a state window (R53). -/
def isWindow (P : Params) (a : BitVec 16) : Bool := (regAt P a).any fun r => decide (r.kind = .window)

/-- The address is mapped to an RW register (R21). -/
def isWritable (P : Params) (a : BitVec 16) : Bool := (regAt P a).any fun r => decide (r.kind = .rw)

/-- The row of R213 for each command: its checks in order, each with whether it fails. -/
def checksOf (P : Params) (s : State) : Instr → List (Bool × FaultCode)
  | .nop => []
  | .prepare => [(!validConfig P s, .badConfig)]
  | .reset _ => [(!s.prepared, .notPrepared)]
  | .wreg a => [((regAt P a).isNone, .badAddr), (!isWritable P a, .roWrite)]
  | .rreg a =>
    [ ((regAt P a).isNone, .badAddr),
      (isWindow P a && !s.prepared, .notPrepared),
      (isWindow P a && decide (s.actNch.toNat ≤ s.chsel.toNat), .badChannel) ]
  | .ldblk c _ => blockChecks s c
  | .stblk c _ => blockChecks s c
  | .lwsRun c _ => blockChecks s c
  | .dwsRun c => blockChecks s c
  | .oacRun c _ _ => blockChecks s c
  | .triRun c => blockChecks s c
  | .ovsUp c => blockChecks s c
  | .ovsDown c => blockChecks s c
  | .bqcRun c _ f l => blockChecks s c ++ [(decide (l < f ∨ P.nsec ≤ l), .badSection)]

/-- The words of `din` a command needs (R116). -/
def needOf (s : State) : Instr → Nat
  | .wreg _ => 1
  | .ldblk _ b => lenOf s b
  | _ => 0

/-- The unit of a processing command (R27). -/
def unitOf : Instr → Option UnitId
  | .lwsRun _ _ => some .lws
  | .dwsRun _ => some .dws
  | .oacRun _ _ _ => some .oac
  | .triRun _ => some .tri
  | .ovsUp _ => some .ovs
  | .ovsDown _ => some .ovs
  | .bqcRun _ _ _ _ => some .bqc
  | _ => none

/-- The channel of a block command (R83). -/
def channelOf : Instr → Option Nat
  | .ldblk c _ => some c
  | .stblk c _ => some c
  | .lwsRun c _ => some c
  | .dwsRun c => some c
  | .oacRun c _ _ => some c
  | .triRun c => some c
  | .ovsUp c => some c
  | .ovsDown c => some c
  | .bqcRun c _ _ _ => some c
  | _ => none

/-! ## The register map (R21) -/

/-- The mapped addresses, as the rows of R21 give them. -/
def IsMapped (P : Params) (n : Nat) : Prop :=
  n ≤ 0x0006 ∨ (0x0008 ≤ n ∧ n ≤ 0x0011) ∨ (0x0100 ≤ n ∧ n ≤ 0x0106) ∨
  (0x0200 ≤ n ∧ n ≤ 0x0203) ∨ (0x0208 ≤ n ∧ n ≤ 0x020C) ∨ n = 0x0210 ∨
  (0x0300 ≤ n ∧ n ≤ 0x0305) ∨ (0x0308 ≤ n ∧ n ≤ 0x0311) ∨
  (0x0400 ≤ n ∧ n ≤ 0x0409) ∨ (0x0410 ≤ n ∧ n ≤ 0x0422) ∨
  (∃ (s d p : Fin 2) (k : Nat), k < P.hblen s d p ∧ n = 0x0500 + 0x40 * (2 * s.val + d.val) + 0x20 * p.val + k) ∨
  (∃ (s d p : Fin 2), n = 0x0600 + 2 * (2 * s.val + d.val) + p.val) ∨
  (∃ (s : Fin 2) (k : Nat), k < P.uplen s ∧ n = 0x0640 + 0x20 * s.val + k) ∨
  (∃ (s : Fin 2) (k : Nat), k < P.hblen s 1 0 ∧ n = 0x0680 + 0x20 * s.val + k) ∨
  (∃ (s : Fin 2) (k : Nat), k < P.hblen s 1 1 ∧ n = 0x06C0 + 0x20 * s.val + k) ∨
  (∃ j f : Nat, j < P.nsec ∧ f < 5 ∧ n = 0x0700 + 8 * j + f) ∨
  (∃ j g : Nat, j < P.nsec ∧ g < 4 ∧ n = 0x0780 + 4 * j + g)

/-- The instance has the register: a tap below its branch's length, a history cell below its history's length, a section
below `NSEC`; every other register is in every instance (R45 to R48). -/
def Reg.present (P : Params) : Reg → Prop
  | .hbtap s d p k => k.val < P.hblen s d p
  | .uph s k => k.val < P.uplen s
  | .dne s k => k.val < P.hblen s 1 0
  | .dno s k => k.val < P.hblen s 1 1
  | .bq j _ => j.val < P.nsec
  | .bs j _ => j.val < P.nsec
  | _ => True

/-- The address of a coefficient within its section's row (R47). -/
def BqField.offset : BqField → Nat
  | .b0 => 0 | .b1 => 1 | .b2 => 2 | .a1 => 3 | .a2 => 4

/-- The address of a state cell within its section's row (R48). -/
def BsField.offset : BsField → Nat
  | .x1 => 0 | .x2 => 1 | .y1 => 2 | .y2 => 3

/-- The address of every register, row by row of R21. -/
def Reg.address : Reg → Nat
  | .status => 0x0000 | .fault => 0x0001 | .faultCc => 0x0002 | .cc => 0x0003
  | .bypass => 0x0004 | .blklen => 0x0005 | .chsel => 0x0006
  | .cfgSr => 0x0008 | .cfgMaxblk => 0x0009 | .cfgNch => 0x000A | .cfgOsf => 0x000B
  | .actSr => 0x000C | .actMaxblk => 0x000D | .actNch => 0x000E | .actOsf => 0x000F
  | .fsProc => 0x0010 | .eps => 0x0011
  | .omegaP i => 0x0100 + i.val | .omegaT => 0x0106
  | .dcR => 0x0200 | .dcC => 0x0201 | .dcIs => 0x0202 | .dcVt => 0x0203
  | .dkA => 0x0208 | .dkB => 0x0209 | .dkQ0 => 0x020A | .dkL => 0x020B | .dkIvt => 0x020C
  | .dsV => 0x0210
  | .ocR1 => 0x0300 | .ocR2 => 0x0301 | .ocIs => 0x0302 | .ocVt => 0x0303 | .ocVrail => 0x0304 | .ocVsat => 0x0305
  | .okGa => 0x0308 | .okRr => 0x0309 | .okQ0 => 0x030A | .okL => 0x030B | .okIvt => 0x030C
  | .okXk => 0x030D | .okC1 => 0x030E | .okC2 => 0x030F | .okC3 => 0x0310 | .okIvs => 0x0311
  | .tcMu => 0x0400 | .tcK => 0x0401 | .tcVb => 0x0402 | .tcRp => 0x0403 | .tcRk => 0x0404
  | .tcRg => 0x0405 | .tcRo => 0x0406 | .tcCi => 0x0407 | .tcCk => 0x0408 | .tcCo => 0x0409
  | .tkKg => 0x0410 | .tkKk => 0x0411 | .tkR0k => 0x0412 | .tkAp0 => 0x0413
  | .tkKps => 0x0414 | .tkR0p => 0x0415 | .tkKo => 0x0416 | .tkKso => 0x0417
  | .tkRt => 0x0418 | .tkRpk => 0x0419 | .tkImu => 0x041A | .tkSk0 => 0x041B
  | .tkSo0 => 0x041C | .tkIdc => 0x041D | .tkAk0 => 0x041E | .tkI0 => 0x041F
  | .tsSi => 0x0420 | .tsSk => 0x0421 | .tsSo => 0x0422
  | .hbtap s d p k => 0x0500 + 0x40 * (2 * s.val + d.val) + 0x20 * p.val + k.val
  | .hblen s d p => 0x0600 + 2 * (2 * s.val + d.val) + p.val
  | .uph s k => 0x0640 + 0x20 * s.val + k.val
  | .dne s k => 0x0680 + 0x20 * s.val + k.val
  | .dno s k => 0x06C0 + 0x20 * s.val + k.val
  | .bq j f => 0x0700 + 8 * j.val + f.offset
  | .bs j g => 0x0780 + 4 * j.val + g.offset

/-- The addresses of the RW registers (R21, R114). -/
def IsRwAddress (P : Params) (n : Nat) : Prop :=
  (0x0004 ≤ n ∧ n ≤ 0x0006) ∨ (0x0008 ≤ n ∧ n ≤ 0x000B) ∨
  (∃ j f : Nat, j < P.nsec ∧ f < 5 ∧ n = 0x0700 + 8 * j + f)

/-- The addresses of the state windows (R21, R53). -/
def IsWindowAddress (P : Params) (n : Nat) : Prop :=
  n = 0x0210 ∨ (0x0420 ≤ n ∧ n ≤ 0x0422) ∨
  (∃ (s : Fin 2) (k : Nat), k < P.uplen s ∧ n = 0x0640 + 0x20 * s.val + k) ∨
  (∃ (s : Fin 2) (k : Nat), k < P.hblen s 1 0 ∧ n = 0x0680 + 0x20 * s.val + k) ∨
  (∃ (s : Fin 2) (k : Nat), k < P.hblen s 1 1 ∧ n = 0x06C0 + 0x20 * s.val + k) ∨
  (∃ j g : Nat, j < P.nsec ∧ g < 4 ∧ n = 0x0780 + 4 * j + g)

/-- The bits of the word an RW register's field holds (R27 to R33, R47, R52). -/
def fieldMask : Reg → Word
  | .bypass => 0x0000003F#32
  | .blklen => 0x0000FFFF#32
  | .chsel => 0x0000000F#32
  | .cfgMaxblk => 0x0000FFFF#32
  | .cfgNch => 0x0000001F#32
  | .cfgOsf => 0x00000007#32
  | _ => 0xFFFFFFFF#32

/-! ## What a command leaves unchanged -/

/-- The other buffer of a channel. -/
def otherBuf : BufSel → BufSel
  | .lo => .hi
  | .hi => .lo

/-- The frame of a processing command on channel c: `CC` advances, `NF` may be set, channel c may change; every other
register, channel and stream is as before (R83, R85). The model's own counter is left open (log 4). -/
structure ProcessFrame (s t : State) (c : Nat) : Prop where
  others : t = { s with chans := t.chans, nf := t.nf, cc := s.cc + 1, draws := t.draws }
  channels : ∀ e, e ≠ c → t.chan e = s.chan e

/-- Buffer b of channel c holds y i in the cells i below `LEN(b)` and is as before from there on; the channel's other
buffer is as before (R84, R117). -/
structure BlockHolds (s t : State) (c : Nat) (b : BufSel) (len : Nat) (y : Nat → Num32) : Prop where
  written : ∀ i, i < len → memGet ((t.chan c).buf b) i = some (y i)
  beyond : ∀ i, len ≤ i → memGet ((t.chan c).buf b) i = memGet ((s.chan c).buf b) i
  otherBuffer : (t.chan c).buf (otherBuf b) = (s.chan c).buf (otherBuf b)

/-- The unit state of a channel is as before (R83). -/
structure SameUnitState (a b : Channel) : Prop where
  dsV : b.dsV = a.dsV
  ts : b.ts = a.ts
  ovs : b.ovs = a.ovs
  bs : b.bs = a.bs

/-- `NF` after the command is 1 exactly where it was 1, or one of the values the command wrote is not finite (R218). -/
def FlagRecords (s t : State) (wrote : Num32 → Prop) : Prop :=
  t.nf = true ↔ s.nf = true ∨ ∃ v, wrote v ∧ finite v = false

/-! ## Invariants -/

/-- Both sample memories of every channel are in canonical form. -/
def BuffersCanonical (s : State) : Prop :=
  ∀ c, Memory.wf (s.chan c).bufLo = true ∧ Memory.wf (s.chan c).bufHi = true

/-- A written cell lies inside its buffer, on a configured channel (R49, R72, R231). -/
def BuffersInBounds (s : State) : Prop :=
  ∀ c i v,
    (memGet (s.chan c).bufLo i = some v → c < s.actNch.toNat ∧ i < s.actMaxblk.toNat) ∧
    (memGet (s.chan c).bufHi i = some v → c < s.actNch.toNat ∧ i < s.actMaxblk.toNat * s.actOsf.toNat)

/-- `FAULT` and `FAULTCC` are 0 while nothing is recorded, and `FAULT` is one of the eight codes when something is (R23,
R24, R211). -/
def FaultRecordAgrees (s : State) : Prop :=
  (s.faulted = false → s.fault = 0 ∧ s.faultCc = 0) ∧
  (s.faulted = true → 1 ≤ s.fault.toNat ∧ s.fault.toNat ≤ 8)

/-- The configuration in force is all zero before the first `PREPARE` and one `PREPARE` accepts afterwards (R34, R112). -/
def ConfigInForceLegal (P : Params) (s : State) : Prop :=
  (s.prepared = false → s.actSr = posZero ∧ s.actMaxblk = 0 ∧ s.actNch = 0 ∧ s.actOsf = 0) ∧
  (s.prepared = true →
    finite s.actSr = true ∧ flt posZero s.actSr = true ∧
    1 ≤ s.actMaxblk.toNat ∧ s.actMaxblk.toNat ≤ P.blkMax ∧
    1 ≤ s.actNch.toNat ∧ s.actNch.toNat ≤ P.nchMax ∧
    (s.actOsf = 2#3 ∨ s.actOsf = 4#3))

/-- Before the first successful `PREPARE` no state cell, derived constant or buffer has ever changed and `NF` is 0
(R213, R218, R240). -/
def UntouchedUntilPrepared (s : State) : Prop :=
  s.prepared = false →
    s.nf = false ∧ s.fsProc = posZero ∧ s.dk = DwsConsts.reset ∧ s.ok = OacConsts.reset ∧ s.tk = TriConsts.reset ∧
    s.chans = Vector.replicate 16 Channel.reset

/-- What no command can reach is as after reset: the channels from `ACT_NCH` on, the sections from `NSEC` on, the
history cells from their branch's length on (R54, U11; log 10). -/
def UnreachableIsReset (P : Params) (s : State) : Prop :=
  (∀ c, s.actNch.toNat ≤ c → s.chan c = Channel.reset) ∧
  (∀ j, P.nsec ≤ j → s.bq.getD j Biquad.identity = Biquad.identity ∧
    ∀ c, (s.chan c).bs.getD j BiquadState.reset = BiquadState.reset) ∧
  (∀ c (i : Fin 2) k,
    (P.uplen i ≤ k → (((s.chan c).ovs[i]).uph.getD k posZero) = posZero) ∧
    (P.hblen i 1 0 ≤ k → (((s.chan c).ovs[i]).dne.getD k posZero) = posZero) ∧
    (P.hblen i 1 1 ≤ k → (((s.chan c).ovs[i]).dno.getD k posZero) = posZero))

/-- Every state cell of a channel is finite. -/
def CellsFinite (ch : Channel) : Prop :=
  finite ch.dsV = true ∧ allFinite ch.ts.values = true ∧
  (∀ (i : Fin 2) (k : Fin 32), finite (ch.ovs[i]).uph[k] = true ∧ finite (ch.ovs[i]).dne[k] = true ∧
    finite (ch.ovs[i]).dno[k] = true) ∧
  (∀ j : Fin 16, allFinite (ch.bs[j]).values = true)

/-- While `NF` is 0 every state cell and every derived constant is finite (R22, R218). -/
def FiniteUnlessFlagged (s : State) : Prop :=
  s.nf = false → allFinite (derivedValues s) = true ∧ ∀ c, CellsFinite (s.chan c)

/-- The invariants of the block together. -/
structure Legal (P : Params) (s : State) : Prop where
  canonical : BuffersCanonical s
  bounds : BuffersInBounds s
  faults : FaultRecordAgrees s
  config : ConfigInForceLegal P s
  untouched : UntouchedUntilPrepared s
  unreachable : UnreachableIsReset P s
  flagged : FiniteUnlessFlagged s

/-! ## Rounding (R8) -/

/-- The value of a finite number. -/
def numValue (a : Num32) : ℚ := (signedUnits a : ℚ) / (2 ^ 149 : ℚ)

/-- y is the finite number nearest to the real x; of two equally near ones, the one whose last bit is 0; and it has the
sign of x unless x is zero (R8). -/
structure NearestEven (x : ℝ) (y : Num32) : Prop where
  isFinite : finite y = true
  nearest : ∀ z, finite z = true → |(numValue y : ℝ) - x| ≤ |(numValue z : ℝ) - x|
  even : ∀ z, finite z = true → |(numValue z : ℝ) - x| = |(numValue y : ℝ) - x| →
    numValue z = numValue y ∨ y.getLsbD 0 = false
  sign : x ≠ 0 → (signOf y = true ↔ x < 0)

/-- y is the real x rounded once: to nearest even below the overflow threshold 2^128 - 2^103, to the infinity of x's
sign from it on (R8). -/
def RoundsTo (x : ℝ) (y : Num32) : Prop :=
  (|x| < 2 ^ 128 - 2 ^ 103 → NearestEven x y) ∧
  (2 ^ 128 - 2 ^ 103 ≤ |x| → isInf y = true ∧ (signOf y = true ↔ x < 0))

/-! ## The requirements on an instance (R145, R155, R195) -/

/-- The accuracy requirement of R145: for every finite x of the valid domain `omega` is finite and meets
`|omega(x)*e^omega(x) - e^x| < 1e-3 * e^x` in real arithmetic. That the domain reaches from -1.5 or below to 1.5 or above
is in the types of its bounds (R6). -/
def OmegaAccurate (P : Params) : Prop :=
  ∀ (d : Draw) (x : Num32), finite x = true → flt x P.omegaXmin.lower = false → flt P.omegaXmax.upper x = false →
    finite (omega P d x) = true ∧
    |(numValue (omega P d x) : ℝ) * Real.exp (numValue (omega P d x) : ℝ) - Real.exp (numValue x : ℝ)|
      < 1 / 1000 * Real.exp (numValue x : ℝ)

/-- From some sample on every value is finite and below 1e-4 in magnitude: within 1e-4 of the operating point 0 V, for
good (R155, R178). -/
def Settles (y : Nat → Num32) : Prop := ∃ n, ∀ i, n ≤ i → finite (y i) = true ∧ |numValue (y i)| < 1 / 10000

/-- With the constants k, zero input of either sign brings the diode clipper's output, which is its state too, from the
state s to within 1e-4 of 0 V (R153, R155). -/
def DwsSettlesFrom (P : Params) (k : DwsConsts) (s : Num32) : Prop :=
  ∀ u v : Nat → Num32, (∀ i, isZero (u i) = true) → v 0 = s →
    (∀ i, DiodeSample P k (v i) (u i) (v (i + 1))) → Settles v

/-- The requirement of R155 on the parameters, at the high rate fs: from any finite state, under zero input, |y| falls
below 1e-4. That it is the block's own rounded arithmetic, and one rate, is the model's reading (log 19). -/
def DwsSettles (P : Params) (fs : Num32) : Prop :=
  ∀ (k : DwsConsts) (s : Num32), DerivedDws P fs k → finite s = true → DwsSettlesFrom P k s

/-- The same property of the triode stage, which R178 quotes and does not make a requirement: from any finite cells the
output settles under zero input. -/
def TriSettles (P : Params) (fs : Num32) : Prop :=
  ∀ (k : TriConsts) (u y : Nat → Num32) (t : Nat → TriState), DerivedTri P fs k → (∀ i, isZero (u i) = true) →
    allFinite (t 0).values = true → (∀ i, TriodeSample P k (t i) (u i) (t (i + 1)) (y i)) → Settles y

/-- Every tap is a number, as the sums of R195 take it: neither an infinity nor a NaN. -/
def TapsFinite (P : Params) : Prop :=
  ∀ (s d p : Fin 2) (k : Nat), k < P.hblen s d p → finite ((P.hb s d p).tap.getD k posZero) = true

/-- The sum of a branch's taps. -/
def tapSum (h : HbBranch) : ℚ := ((List.range h.len).map fun k => numValue (h.tap.getD k posZero)).sum

/-- Requirement (i) of R195: a constant input comes back as it is. -/
def TapsKeepDc (P : Params) : Prop :=
  TapsFinite P ∧ ∀ s : Fin 2, tapSum (P.hb s 0 0) = 1 / 2 ∧ tapSum (P.hb s 0 1) = 1 / 2 ∧
    tapSum (P.hb s 1 0) + tapSum (P.hb s 1 1) = 1

/-- One stage up in real arithmetic, over all time (R188). -/
def StageUp (P : Params) (s : Fin 2) (x v : ℤ → ℝ) : Prop :=
  ∀ n : ℤ,
    v (2 * n) = 2 * ∑ k ∈ Finset.range (P.hblen s 0 0),
      (numValue ((P.hb s 0 0).tap.getD k posZero) : ℝ) * x (n - k) ∧
    v (2 * n + 1) = 2 * ∑ k ∈ Finset.range (P.hblen s 0 1),
      (numValue ((P.hb s 0 1).tap.getD k posZero) : ℝ) * x (n - k)

/-- One stage down in real arithmetic, over all time: the odd branch sees the odd samples up to the previous pair
(R189). -/
def StageDown (P : Params) (s : Fin 2) (v y : ℤ → ℝ) : Prop :=
  ∀ n : ℤ,
    y n = ∑ k ∈ Finset.range (P.hblen s 1 0),
        (numValue ((P.hb s 1 0).tap.getD k posZero) : ℝ) * v (2 * (n - k))
      + ∑ k ∈ Finset.range (P.hblen s 1 1),
        (numValue ((P.hb s 1 1).tap.getD k posZero) : ℝ) * v (2 * (n - k) - 1)

/-- The 100 Hz sine at a base rate of 44100 (R195). -/
def IsTestSine (x : ℤ → ℝ) : Prop := ∀ n : ℤ, x n = Real.sin (2 * Real.pi * 100 * n / 44100)

/-- A sine of the same frequency whose level is within `OVS_TOL_DB` = 0.5 dB (R195, C2). -/
def LevelKept (y : ℤ → ℝ) : Prop :=
  ∃ a φ : ℝ, 0 < a ∧ |20 * Real.logb 10 a| ≤ 1 / 2 ∧
    ∀ n : ℤ, y n = a * Real.sin (2 * Real.pi * 100 * n / 44100 + φ)

/-- Requirement (ii) of R195, for factor 2 and for factor 4. -/
def TapsKeepLowLevel (P : Params) : Prop :=
  TapsFinite P ∧ ∀ x v u w y z : ℤ → ℝ, IsTestSine x → StageUp P 0 x v →
    (StageDown P 0 v y → LevelKept y) ∧
    (StageUp P 1 v u → StageDown P 1 u w → StageDown P 0 w z → LevelKept z)

/-- A conforming instance: its parameters meet R145 and R195, the two rules that use the word. No rule of the machine
depends on it. -/
structure Conforming (P : Params) : Prop where
  omega : OmegaAccurate P
  dc : TapsKeepDc P
  low : TapsKeepLowLevel P

/-- An instance that meets the requirements at the high rate fs, that of R155 among them. No rule of the machine depends
on it. -/
structure ConformingAt (P : Params) (fs : Num32) : Prop extends Conforming P where
  dws : DwsSettles P fs

end Sys2Proof.Machine
end

