-- ==== Sys2Proof/Certificates/Slice0/Obligations.lean ====
section
/-! DEFINITION. The statements for the provers, from the numbered rules of spec/. `Config.params` is the instance's
parameters, of which nothing but the types is known; a statement with a premise on the parameters is made for every
`P`. A draw (`Draw`) keys a free value: no statement says which value it is, and the counter `draws` of the state, which
is the model's own (log 4), is left open in all statements but `EveryStepDrawsAfresh`. -/

open Sys2Proof Sys2Proof.Machine

/-! ## Encoding (R90 to R99) -/

/-- R99: the worked encodings, legal and illegal. -/
def Obligations.DecodeOfTheWorkedEncodings : Prop :=
  decode 0x00000000#32 = .ok .nop ∧ decode 0x01000000#32 = .ok .prepare ∧
  decode 0x0200003F#32 = .ok (.reset 0x3F#6) ∧ decode 0x02000008#32 = .ok (.reset 0x08#6) ∧
  decode 0x03000005#32 = .ok (.wreg 0x0005#16) ∧ decode 0x04000000#32 = .ok (.rreg 0x0000#16) ∧
  decode 0x0300070B#32 = .ok (.wreg 0x070B#16) ∧ decode 0x05000000#32 = .ok (.ldblk 0 .lo) ∧
  decode 0x05180000#32 = .ok (.ldblk 1 .hi) ∧ decode 0x06080000#32 = .ok (.stblk 0 .hi) ∧
  decode 0x10000000#32 = .ok (.lwsRun 0 .lo) ∧ decode 0x11080000#32 = .ok (.dwsRun 0) ∧
  decode 0x11180000#32 = .ok (.dwsRun 1) ∧ decode 0x12090000#32 = .ok (.oacRun 0 .hi .knee) ∧
  decode 0x12000000#32 = .ok (.oacRun 0 .lo .tanh) ∧ decode 0x13080000#32 = .ok (.triRun 0) ∧
  decode 0x14000000#32 = .ok (.ovsUp 0) ∧ decode 0x15100000#32 = .ok (.ovsDown 1) ∧
  decode 0x16080100#32 = .ok (.bqcRun 0 .hi 0 1) ∧ decode 0x16000202#32 = .ok (.bqcRun 0 .lo 2 2) ∧
  (∀ w ∈ [0x11000000#32, 0x00000001#32, 0x07000000#32, 0x14080000#32, 0x16000010#32],
    ∃ e, decode w = .error e)

/-- R93: whichever row a word hits gives the command, in any order of the rows; a word that hits none is illegal. -/
def Obligations.DecodeTakesTheMatchingRow : Prop :=
  ∀ w : Word,
    (∀ r ∈ opRows, w &&& r.mask = r.pattern → decode w = .ok (r.command w)) ∧
    ((∀ r ∈ opRows, w &&& r.mask ≠ r.pattern) → ∃ e, decode w = .error e)

/-- R91, R92: decoding the word of a well-formed instruction gives it back, with every operand at every value. -/
def Obligations.DecodeOfEncodeIsTheInstruction : Prop :=
  ∀ i : Instr, i.wf = true → decode (encode i) = .ok i

/-- R93, R96: a word that decodes is the one word of its instruction, so no bit of it is ignored. -/
def Obligations.DecodedWordIsItsEncoding : Prop :=
  ∀ (w : Word) (i : Instr), decode w = .ok i → i.wf = true ∧ encode i = w

/-! ## The register map (R21, R51) -/

/-- R21, R51, R53, R114: an address is mapped exactly when a row of the map gives it, it shows the register that row
names, with its indices, and it is RW, or a state window, exactly when its row is. -/
def Obligations.MappedAddressesAreThoseOfTheTable : Prop :=
  ∀ (P : Params) (a : BitVec 16),
    ((regAt P a).isSome = true ↔ IsMapped P a.toNat) ∧
    (∀ r : Reg, regAt P a = some r ↔ r.present P ∧ a.toNat = r.address) ∧
    (isWritable P a = true ↔ IsRwAddress P a.toNat) ∧
    (isWindow P a = true ↔ IsWindowAddress P a.toNat)

/-- R21: no two addresses show one register. -/
def Obligations.RegisterAddressesAreDistinct : Prop :=
  ∀ (P : Params) (a b : BitVec 16) (r : Reg), regAt P a = some r → regAt P b = some r → a = b

/-! ## The sequencer (R26, R110, R116, R212 to R214) -/

/-- R110: a step takes the next word and runs its instruction; nothing but the word is taken before. -/
def Obligations.StepRunsTheDecodedCommand : Prop :=
  ∀ (s : State) (w : Word) (rest : List Word) (i : Instr),
    s.cmds = w :: rest → decode w = .ok i → step s = exec i { s with cmds := rest }

/-- R19: the run ends when the command list is exhausted; that the model names this a stop is log 6. -/
def Obligations.StepEndsWithTheCommandList : Prop :=
  ∀ s : State, s.cmds = [] → step s = .fault .endOfCommands

/-- R212, R213: a command that fails checks, and a word that is no command, records exactly the first failure and does
nothing else; the code of each cause is the one of the table of R211. -/
def Obligations.FirstFailingCheckIsRecorded : Prop :=
  (FaultCode.illegalCmd.code = 1 ∧ FaultCode.notPrepared.code = 2 ∧ FaultCode.badConfig.code = 3 ∧
    FaultCode.badChannel.code = 4 ∧ FaultCode.badLength.code = 5 ∧ FaultCode.badAddr.code = 6 ∧
    FaultCode.roWrite.code = 7 ∧ FaultCode.badSection.code = 8) ∧
  (∀ (i : Instr) (s : State) (code : FaultCode), s.faulted = false →
    firstFailing (checksOf Config.params s i) = some code →
    ∃ d, exec i s = .next { s with
      faulted := true, fault := code.code, faultCc := s.cc, cc := s.cc + 1, draws := d }) ∧
  (∀ (s : State) (w : Word) (rest : List Word) (e : Illegal), s.faulted = false →
    s.cmds = w :: rest → decode w = .error e →
    ∃ d, step s = .next { s with
      cmds := rest, faulted := true, fault := 1, faultCc := s.cc, cc := s.cc + 1, draws := d })

/-- R110, R116, R219: a command whose checks pass completes without a fault when its `din` words are there, and waits
with nothing done when they are not (that the model names the wait a stop is log 5). -/
def Obligations.PassedChecksCompleteOrWait : Prop :=
  ∀ (i : Instr) (s : State), s.faulted = false → firstFailing (checksOf Config.params s i) = none →
    (needOf s i ≤ s.din.length →
      ∃ t, exec i s = .next t ∧ t.faulted = false ∧ t.fault = s.fault ∧ t.faultCc = s.faultCc ∧
        t.din = s.din.drop (needOf s i)) ∧
    (s.din.length < needOf s i → exec i s = .fault .waitingForDin)

/-- R214: in the faulted state every word is counted, an `RREG` whose checks pass executes, and everything else is
discarded; the record of the first fault stays. -/
def Obligations.FaultedBlockDiscards : Prop :=
  ∀ s : State, s.faulted = true →
    (∀ i : Instr, (∀ a, i ≠ .rreg a) → ∃ d, exec i s = .next { s with cc := s.cc + 1, draws := d }) ∧
    (∀ (a : BitVec 16) (code : FaultCode), firstFailing (checksOf Config.params s (.rreg a)) = some code →
      ∃ d, exec (.rreg a) s = .next { s with cc := s.cc + 1, draws := d }) ∧
    (∀ (a : BitVec 16) (r : Reg), regAt Config.params a = some r →
      firstFailing (checksOf Config.params s (.rreg a)) = none →
      ∃ d, exec (.rreg a) s = .next { s with
        dout := s.dout ++ [readReg Config.params s r], cc := s.cc + 1, draws := d }) ∧
    (∀ (w : Word) (rest : List Word) (e : Illegal), s.cmds = w :: rest → decode w = .error e →
      ∃ d, step s = .next { s with cmds := rest, cc := s.cc + 1, draws := d })

/-- R22 to R24: no step clears `PREPARED`, `FAULTED` or `NF`, nor changes the record of the first fault. -/
def Obligations.StickyBitsAreNeverCleared : Prop :=
  ∀ s t : State, step s = .next t →
    (s.prepared = true → t.prepared = true) ∧ (s.nf = true → t.nf = true) ∧
    (s.faulted = true → t.faulted = true ∧ t.fault = s.fault ∧ t.faultCc = s.faultCc)

/-- R26: after k steps that all complete, `CC` has advanced by k modulo 2^32 and k words have left the command port. -/
def Obligations.CommandCounterCountsEveryWord : Prop :=
  ∀ (k : Nat) (s t : State), Host.Core.run Sys2Proof.core k s = .next t →
    t.cc = s.cc + BitVec.ofNat 32 k ∧ t.cmds = s.cmds.drop k ∧ k ≤ s.cmds.length

/-- The model's own counter (log 4): every command word advances it, so two steps never draw the same free value. -/
def Obligations.EveryStepDrawsAfresh : Prop :=
  ∀ s t : State, step s = .next t → t.draws = s.draws + 1

/-! ## Reset (R240) -/

/-- R240: hardware reset, from any state; and the state a run begins with is one of them. -/
def Obligations.HardwareResetLeavesTheStatedValues : Prop :=
  State.reset = hardwareReset State.reset ∧
  ∀ (P : Params) (s : State),
    (∀ r : Reg, r.kind ≠ .roc → (∀ j, r ≠ .bq j .b0) → readReg P (hardwareReset s) r = 0x00000000#32) ∧
    (∀ j, readReg P (hardwareReset s) (.bq j .b0) = 0x3F800000#32) ∧
    (∀ r : Reg, r.kind = .roc → readReg P (hardwareReset s) r = readReg P s r) ∧
    (∀ c, SameUnitState Channel.reset ((hardwareReset s).chan c)) ∧
    (∀ c b i, memGet (((hardwareReset s).chan c).buf b) i = none) ∧
    (hardwareReset s).cmds = [] ∧ (hardwareReset s).din = [] ∧ (hardwareReset s).dout = []

/-! ## The shell commands (R111 to R118) -/

/-- R111: `NOP`. -/
def Obligations.NopOnlyAdvancesTheCounter : Prop :=
  encode .nop = 0x00000000#32 ∧
  ∀ s : State, ∃ d, exec .nop s = .next { s with cc := s.cc + 1, draws := d }

/-- R112, with the derivations of R152, R162 and R173: `PREPARE` with a configuration it accepts, and with one it
rejects. -/
def Obligations.PrepareLatchesDerivesAndResets : Prop :=
  ∀ s : State, s.faulted = false →
    (ConfigAccepted Config.params s →
      ∃ t, exec .prepare s = .next t ∧
        t = { s with
          prepared := true, nf := t.nf, cc := s.cc + 1, draws := t.draws,
          actSr := s.cfgSr, actMaxblk := s.cfgMaxblk, actNch := s.cfgNch, actOsf := s.cfgOsf,
          fsProc := t.fsProc, dk := t.dk, ok := t.ok, tk := t.tk, bq := t.bq, chans := t.chans } ∧
        (∃ d : Draw, t.fsProc = fmul d s.cfgSr (numOf s.cfgOsf.toNat)) ∧
        DerivedDws Config.params t.fsProc t.dk ∧
        DerivedOac Config.params t.ok ∧
        DerivedTri Config.params t.fsProc t.tk ∧
        (t.nf = true ↔ s.nf = true ∨ allFinite (derivedValues t) = false) ∧
        (∀ j : Fin 16, t.bq[j] = ⟨0x3F800000#32, 0#32, 0#32, 0#32, 0#32⟩) ∧
        (∀ c, SameUnitState Channel.reset (t.chan c)) ∧
        (∀ c b i, memGet ((t.chan c).buf b) i = none)) ∧
    (¬ ConfigAccepted Config.params s →
      ∃ d, exec .prepare s = .next { s with
        faulted := true, fault := 3, faultCc := s.cc, cc := s.cc + 1, draws := d })

/-- R242: a second `PREPARE` with the same `CFG_*` changes nothing but the counters, when the constants are finite (of
one that is a NaN the pattern is free, R11). -/
def Obligations.PrepareTwiceIsPrepareOnce : Prop :=
  ∀ (P : Params) (s t : State), s.faulted = false → ConfigAccepted P s →
    prepareOn P s = .next t → allFinite (derivedValues t) = true →
    ∃ d, prepareOn P t = .next { t with cc := t.cc + 1, draws := d }

/-- R34, R250: the configuration in force and the derived constants are changed by `PREPARE` alone. -/
def Obligations.OnlyPrepareChangesTheConstants : Prop :=
  ∀ (i : Instr) (s t : State), i ≠ .prepare → exec i s = .next t →
    t.prepared = s.prepared ∧ t.actSr = s.actSr ∧ t.actMaxblk = s.actMaxblk ∧ t.actNch = s.actNch ∧
    t.actOsf = s.actOsf ∧ t.fsProc = s.fsProc ∧ t.dk = s.dk ∧ t.ok = s.ok ∧ t.tk = s.tk

/-- R113: `RESET m` on a prepared block, on every channel; and on one that is not prepared. -/
def Obligations.ResetClearsTheSelectedUnits : Prop :=
  ∀ (m : BitVec 6) (s : State), s.faulted = false →
    encode (.reset m) = 0x02000000#32 + m.setWidth 32 ∧
    (s.prepared = true →
      ∃ t, exec (.reset m) s = .next t ∧
        t = { s with chans := t.chans, cc := s.cc + 1, draws := t.draws } ∧
        ∀ c,
          (t.chan c).bufLo = (s.chan c).bufLo ∧ (t.chan c).bufHi = (s.chan c).bufHi ∧
          (t.chan c).dsV = (if m.getLsbD 1 then posZero else (s.chan c).dsV) ∧
          (t.chan c).ts = (if m.getLsbD 3 then ⟨posZero, posZero, posZero⟩ else (s.chan c).ts) ∧
          (∀ (i : Fin 2) (k : Fin 32),
            ((t.chan c).ovs[i]).uph[k] = (if m.getLsbD 4 then posZero else ((s.chan c).ovs[i]).uph[k]) ∧
            ((t.chan c).ovs[i]).dne[k] = (if m.getLsbD 4 then posZero else ((s.chan c).ovs[i]).dne[k]) ∧
            ((t.chan c).ovs[i]).dno[k] = (if m.getLsbD 4 then posZero else ((s.chan c).ovs[i]).dno[k])) ∧
          (∀ (j : Fin 16) (g : BsField),
            ((t.chan c).bs[j]).get g = (if m.getLsbD 5 then posZero else ((s.chan c).bs[j]).get g))) ∧
    (s.prepared = false →
      ∃ d, exec (.reset m) s = .next { s with
        faulted := true, fault := 2, faultCc := s.cc, cc := s.cc + 1, draws := d })

/-- R52, R114: `WREG` stores the low bits of the `din` word that fit the field; every other register reads as before
(the windows too, unless `CHSEL` is what was written), and no buffer or state cell changes. -/
def Obligations.WregStoresTheLowBits : Prop :=
  ∀ (a : BitVec 16) (r : Reg) (s : State) (w : Word) (rest : List Word), s.faulted = false →
    regAt Config.params a = some r → r.kind = .rw → s.din = w :: rest →
    ∃ t, exec (.wreg a) s = .next t ∧
      readReg Config.params t r = w &&& fieldMask r ∧
      (∀ q : Reg, q ≠ r → q ≠ .cc → (r = .chsel → q.kind ≠ .window) →
        readReg Config.params t q = readReg Config.params s q) ∧
      t.chans = s.chans ∧ t.din = rest ∧ t.cmds = s.cmds ∧ t.dout = s.dout ∧
      t.cc = s.cc + 1

/-- R53, R115: `RREG` pushes the register's word and changes nothing else, in the faulted state too. -/
def Obligations.RregPushesTheRegister : Prop :=
  ∀ (a : BitVec 16) (r : Reg) (s : State), regAt Config.params a = some r →
    (r.kind = .window → s.prepared = true ∧ s.chsel.toNat < s.actNch.toNat) →
    ∃ d, exec (.rreg a) s = .next { s with
      dout := s.dout ++ [readReg Config.params s r], cc := s.cc + 1, draws := d }

/-- R22, R115: `RREG` of address 0x0000 pushes `PREPARED` in bit 0, `FAULTED` in bit 1, `NF` in bit 2 and zeros above. -/
def Obligations.RregOfStatusPushesTheFlags : Prop :=
  ∀ s : State, ∃ (d : Nat) (w : Word),
    exec (.rreg 0x0000#16) s = .next { s with dout := s.dout ++ [w], cc := s.cc + 1, draws := d } ∧
    w.getLsbD 0 = s.prepared ∧ w.getLsbD 1 = s.faulted ∧ w.getLsbD 2 = s.nf ∧ ∀ i, 3 ≤ i → w.getLsbD i = false

/-- R21 to R49, R53: what each register but `STATUS` reads as: its field, the bits above it zero; a parameter; or, for a
state window, the cell of channel `CHSEL`. -/
def Obligations.RegistersReadAsTheirFields : Prop :=
  ∀ (P : Params) (s : State),
    [Reg.fault, .faultCc, .cc, .bypass, .blklen, .chsel].map (readReg P s)
      = [s.fault.setWidth 32, s.faultCc, s.cc, s.bypass.setWidth 32, s.blklen.setWidth 32, s.chsel.setWidth 32] ∧
    [Reg.cfgSr, .cfgMaxblk, .cfgNch, .cfgOsf].map (readReg P s)
      = [s.cfgSr, s.cfgMaxblk.setWidth 32, s.cfgNch.setWidth 32, s.cfgOsf.setWidth 32] ∧
    [Reg.actSr, .actMaxblk, .actNch, .actOsf, .fsProc].map (readReg P s)
      = [s.actSr, s.actMaxblk.setWidth 32, s.actNch.setWidth 32, s.actOsf.setWidth 32, s.fsProc] ∧
    (readReg P s .eps = P.eps.num ∧ readReg P s .omegaT = 0x3FC00000#32 ∧
      ∀ i : Fin 6, readReg P s (.omegaP i) = P.omegaP[i]) ∧
    [Reg.dcR, .dcC, .dcIs, .dcVt].map (readReg P s) = [P.dcR, P.dcC, P.dcIs, P.dcVt].map PosNum32.num ∧
    [Reg.dkA, .dkB, .dkQ0, .dkL, .dkIvt].map (readReg P s) = [s.dk.a, s.dk.b, s.dk.q0, s.dk.l, s.dk.ivt] ∧
    [Reg.ocR1, .ocR2, .ocIs, .ocVt, .ocVrail, .ocVsat].map (readReg P s)
      = [P.ocR1, P.ocR2, P.ocIs, P.ocVt, P.ocVrail, P.ocVsat].map PosNum32.num ∧
    [Reg.okGa, .okRr, .okQ0, .okL, .okIvt, .okXk, .okC1, .okC2, .okC3, .okIvs].map (readReg P s)
      = [s.ok.ga, s.ok.rr, s.ok.q0, s.ok.l, s.ok.ivt, s.ok.xk, s.ok.c1, s.ok.c2, s.ok.c3, s.ok.ivs] ∧
    [Reg.tcMu, .tcK, .tcVb, .tcRp, .tcRk, .tcRg, .tcRo, .tcCi, .tcCk, .tcCo].map (readReg P s)
      = [P.tcMu, P.tcK, P.tcVb, P.tcRp, P.tcRk, P.tcRg, P.tcRo, P.tcCi, P.tcCk, P.tcCo].map PosNum32.num ∧
    [Reg.tkKg, .tkKk, .tkR0k, .tkAp0, .tkKps, .tkR0p, .tkKo, .tkKso].map (readReg P s)
      = [s.tk.kg, s.tk.kk, s.tk.r0k, s.tk.ap0, s.tk.kps, s.tk.r0p, s.tk.ko, s.tk.kso] ∧
    [Reg.tkRt, .tkRpk, .tkImu, .tkSk0, .tkSo0, .tkIdc, .tkAk0, .tkI0].map (readReg P s)
      = [s.tk.rt, s.tk.rpk, s.tk.imu, s.tk.sk0, s.tk.so0, s.tk.idc, s.tk.ak0, s.tk.i0] ∧
    (∀ i d p : Fin 2, (readReg P s (.hblen i d p)).toNat = P.hblen i d p ∧
      ∀ k : Fin 32, readReg P s (.hbtap i d p k) = (P.hb i d p).tap[k]) ∧
    (∀ j : Fin 16, [BqField.b0, .b1, .b2, .a1, .a2].map (fun f => readReg P s (.bq j f))
      = [(s.bq[j]).b0, (s.bq[j]).b1, (s.bq[j]).b2, (s.bq[j]).a1, (s.bq[j]).a2]) ∧
    ∀ ch : Channel, ch = s.chan s.chsel.toNat →
      [Reg.dsV, .tsSi, .tsSk, .tsSo].map (readReg P s) = [ch.dsV, ch.ts.si, ch.ts.sk, ch.ts.so] ∧
      (∀ (i : Fin 2) (k : Fin 32), [Reg.uph i k, .dne i k, .dno i k].map (readReg P s)
        = [(ch.ovs[i]).uph[k], (ch.ovs[i]).dne[k], (ch.ovs[i]).dno[k]]) ∧
      ∀ j : Fin 16, [BsField.x1, .x2, .y1, .y2].map (fun g => readReg P s (.bs j g))
        = [(ch.bs[j]).x1, (ch.bs[j]).x2, (ch.bs[j]).y1, (ch.bs[j]).y2]

/-- R117, R119: `LDBLK` moves `LEN(b)` words of `din` into the buffer, patterns unchanged, `NF` untouched, bypass of no
effect. -/
def Obligations.LdblkFillsTheBuffer : Prop :=
  ∀ (c : Nat) (b : BufSel) (s : State), ReadyFor s c → c < 16 → lenOf s b ≤ s.din.length →
    ∃ t, exec (.ldblk c b) s = .next t ∧
      t = { s with chans := t.chans, din := s.din.drop (lenOf s b), cc := s.cc + 1, draws := t.draws } ∧
      BlockHolds s t c b (lenOf s b) (fun i => s.din.getD i posZero) ∧
      SameUnitState (s.chan c) (t.chan c) ∧
      (∀ e, e ≠ c → t.chan e = s.chan e)

/-- R74, R118, R119: `STBLK` pushes one word for each of the `LEN(b)` cells, in order: the value of a written cell, and
nothing one can name for a cell that is not; it changes nothing else. -/
def Obligations.StblkPushesTheCells : Prop :=
  ∀ (c : Nat) (b : BufSel) (s : State), ReadyFor s c →
    ∃ (d : Nat) (y : Nat → Num32),
      exec (.stblk c b) s = .next { s with
        dout := s.dout ++ (List.range (lenOf s b)).map y, cc := s.cc + 1, draws := d } ∧
      ∀ i v, i < lenOf s b → memGet ((s.chan c).buf b) i = some v → y i = v

/-- R73, R95, R117, R118: a block loaded and then stored, once and again, comes back word for word. -/
def Obligations.StoreAfterLoadReturnsTheWords : Prop :=
  ∀ (c : Nat) (b : BufSel) (s : State), ReadyFor s c → c < 16 → lenOf s b ≤ s.din.length →
    ∃ t u v, exec (.ldblk c b) s = .next t ∧ exec (.stblk c b) t = .next u ∧ exec (.stblk c b) u = .next v ∧
      u.dout = s.dout ++ s.din.take (lenOf s b) ∧
      v.dout = s.dout ++ s.din.take (lenOf s b) ++ s.din.take (lenOf s b)

/-! ## Bypass (R124, R125) -/

/-- R124, R125: a bypassed unit's command is `NOP` when its checks pass, and still records a check that fails. -/
def Obligations.BypassedUnitIsANop : Prop :=
  ∀ (i : Instr) (u : UnitId) (s : State), unitOf i = some u → bypassed s u = true → s.faulted = false →
    (firstFailing (checksOf Config.params s i) = none → exec i s = exec .nop s) ∧
    (∀ code, firstFailing (checksOf Config.params s i) = some code →
      ∃ d, exec i s = .next { s with
        faulted := true, fault := code.code, faultCc := s.cc, cc := s.cc + 1, draws := d })

/-! ## Unit LWS (R141, R142, R146) -/

/-- R146: `LWS.RUN` replaces every sample of the block by its omega and touches no state. -/
def Obligations.LwsRunAppliesOmega : Prop :=
  ∀ (c : Nat) (b : BufSel) (s : State), RunsOn s c .lws →
    ∃ (t : State) (y : Nat → Num32), exec (.lwsRun c b) s = .next t ∧
      (∀ i, OmegaValue Config.params ((s.chan c).read s.drawKey b i) (y i)) ∧
      BlockHolds s t c b (lenOf s b) y ∧ SameUnitState (s.chan c) (t.chan c) ∧ ProcessFrame s t c ∧
      FlagRecords s t (fun v => ∃ i, i < lenOf s b ∧ v = y i)

/-- R141, R146: both zeros give `OMEGA_P[0]`, when it is no zero and no NaN and the other coefficients are finite. -/
def Obligations.OmegaOfZeroIsTheConstantTerm : Prop :=
  ∀ (P : Params) (d : Draw) (x : Num32), isZero x = true →
    isZero P.omegaP[0] = false → isNan P.omegaP[0] = false →
    finite P.omegaP[1] = true → finite P.omegaP[2] = true → finite P.omegaP[3] = true →
    finite P.omegaP[4] = true → finite P.omegaP[5] = true →
    omega P d x = P.omegaP[0]

/-- R141, R142: a NaN takes the polynomial and gives a NaN; up to |x| = 1.5 the value is that of Horner's rule; above it,
the infinities included, that of the outer approximant, returned bit for bit unless it is a NaN. -/
def Obligations.OmegaBranchesAtOneAndAHalf : Prop :=
  ∀ (P : Params) (d : Draw) (x : Num32),
    (isNan x = true → isNan (omega P d x) = true) ∧
    (isNan x = true → HornerValue P x (omega P d x)) ∧
    (finite x = true → |numValue x| ≤ 3 / 2 → HornerValue P x (omega P d x)) ∧
    (isInf x = true ∨ (finite x = true ∧ 3 / 2 < |numValue x|) → SameNum (omega P d x) (P.omegaExt x))

/-! ## Unit DWS (R153, R154) -/

/-- R153: `DWS.RUN` runs the diode recursion over `BUFHI` in ascending order; output and new `DS_V` are one value. -/
def Obligations.DwsRunIteratesTheDiode : Prop :=
  ∀ (c : Nat) (s : State), RunsOn s c .dws →
    ∃ (t : State) (v : Nat → Num32), exec (.dwsRun c) s = .next t ∧
      v 0 = (s.chan c).dsV ∧
      (∀ i, DiodeSample Config.params s.dk (v i) ((s.chan c).read s.drawKey .hi i) (v (i + 1))) ∧
      BlockHolds s t c .hi (lenOf s .hi) (fun i => v (i + 1)) ∧
      t.chan c = { s.chan c with dsV := v (lenOf s .hi), bufHi := (t.chan c).bufHi } ∧
      ProcessFrame s t c ∧
      FlagRecords s t (fun x => ∃ i, i < lenOf s .hi ∧ x = v (i + 1))

/-- R154, R155: from a zero state a block of zeros gives +0.0 in every sample and in `DS_V`, whatever `omega` is. -/
def Obligations.DwsSilenceStaysSilent : Prop :=
  ∀ (P : Params) (c : Nat) (s : State), RunsOn s c .dws →
    finite s.dk.a = true → finite s.dk.b = true → (s.chan c).dsV = posZero →
    (∀ i, i < lenOf s .hi → ∃ x, memGet (s.chan c).bufHi i = some x ∧ isZero x = true) →
    ∃ t, dwsRunOn P c s = .next t ∧ BlockHolds s t c .hi (lenOf s .hi) (fun _ => posZero) ∧
      t.chan c = { s.chan c with bufHi := (t.chan c).bufHi } ∧ ProcessFrame s t c ∧ t.nf = s.nf

/-! ## Unit OAC (R161, R163, R165) -/

/-- R161, R163: `OAC.RUN` applies the variant's formula to every sample of the block and touches no state. -/
def Obligations.OacRunAppliesTheVariant : Prop :=
  ∀ (c : Nat) (b : BufSel) (v : OacVariant) (s : State), RunsOn s c .oac →
    ∃ (t : State) (y : Nat → Num32), exec (.oacRun c b v) s = .next t ∧
      (∀ i, ClipperSample Config.params s.ok ((s.chan c).read s.drawKey b i) (y i) v) ∧
      BlockHolds s t c b (lenOf s b) y ∧ SameUnitState (s.chan c) (t.chan c) ∧ ProcessFrame s t c ∧
      FlagRecords s t (fun x => ∃ i, i < lenOf s b ∧ x = y i)

/-- R163: every output of the tanh variant is a NaN or lies between the rails, both included. -/
def Obligations.TanhVariantStaysWithinTheRails : Prop :=
  ∀ (P : Params) (k : OacConsts) (d : Draw) (x : Num32),
    isNan (oacTanh P k d x) = true ∨
    (finite (oacTanh P k d x) = true ∧ |numValue (oacTanh P k d x)| ≤ numValue P.ocVrail.num)

/-- R165: the knee variant gives +0.0 for either zero, and hands a NaN sample on with its very pattern. -/
def Obligations.KneeVariantAtZeroAndNan : Prop :=
  ∀ (P : Params) (k : OacConsts) (d : Draw) (x : Num32),
    (isZero x = true → oacKnee P k d x = posZero) ∧ (isNan x = true → oacKnee P k d x = x)

/-! ## Unit TRI (R174, R176, R178) -/

/-- R176: `TRI.RUN` runs the triode recursion over `BUFHI` in ascending order on the three cells of the channel. -/
def Obligations.TriRunIteratesTheTriode : Prop :=
  ∀ (c : Nat) (s : State), RunsOn s c .tri →
    ∃ (t : State) (st : Nat → TriState) (y : Nat → Num32), exec (.triRun c) s = .next t ∧
      st 0 = (s.chan c).ts ∧
      (∀ i, TriodeSample Config.params s.tk (st i) ((s.chan c).read s.drawKey .hi i) (st (i + 1)) (y i)) ∧
      BlockHolds s t c .hi (lenOf s .hi) y ∧
      t.chan c = { s.chan c with ts := st (lenOf s .hi), bufHi := (t.chan c).bufHi } ∧
      ProcessFrame s t c ∧
      FlagRecords s t (fun x => ∃ i, i < lenOf s .hi ∧ (x = y i ∨ x ∈ (st (i + 1)).values))

/-- R174: the solver: the conducting root above zero, cutoff at and below it and for a NaN, then the guard, which leaves
the current alone when dpk is a NaN. -/
def Obligations.TriSolverBranches : Prop :=
  ∀ (P : Params) (d : Draw) (e0 dpk rt rpk : Num32),
    (flt posZero e0 = true → ∃ i, ConductingCurrent P e0 rt i ∧
      GuardedCurrent P dpk rpk i (triSolve P d e0 dpk rt rpk) ∧ (isNan dpk = true → triSolve P d e0 dpk rt rpk = i)) ∧
    (flt posZero e0 = false →
      GuardedCurrent P dpk rpk posZero (triSolve P d e0 dpk rt rpk) ∧
      (isNan dpk = true → triSolve P d e0 dpk rt rpk = posZero)) ∧
    (flt posZero e0 = false → flt dpk posZero = false → isNan dpk = false → finite rpk = true →
      triSolve P d e0 dpk rt rpk = posZero) ∧
    (flt posZero e0 = false → flt dpk posZero = true → finite rpk = true →
      ∃ d1 d2, triSolve P d e0 dpk rt rpk = guarded P d1 d2 dpk rpk)

/-- R178: with the constants `PREPARE` derives, all finite, silence from the all-zero state is silence: every sample
+0.0 and every state cell +0.0. -/
def Obligations.TriSilenceFromRestIsSilence : Prop :=
  ∀ (P : Params) (c : Nat) (s : State) (d : Draw) (fs : Num32), RunsOn s c .tri →
    s.tk = deriveTri P d fs → finite fs = true → flt posZero fs = true → allFinite s.tk.values = true →
    (s.chan c).ts = ⟨posZero, posZero, posZero⟩ →
    (∀ i, i < lenOf s .hi → ∃ x, memGet (s.chan c).bufHi i = some x ∧ isZero x = true) →
    ∃ t, triRunOn P c s = .next t ∧ BlockHolds s t c .hi (lenOf s .hi) (fun _ => posZero) ∧
      t.chan c = { s.chan c with bufHi := (t.chan c).bufHi } ∧ ProcessFrame s t c ∧ t.nf = s.nf

/-! ## Unit OVS (R186, R191, R192) -/

/-- R186: `push` moves the newest `len` cells one place on, puts the new sample first and leaves the rest alone. -/
def Obligations.PushShiftsTheHistory : Prop :=
  ∀ (h : Vector Num32 32) (len : Nat) (x : Num32), 1 ≤ len → len ≤ 32 →
    (ovsPush h len x).getD 0 posZero = x ∧
    (∀ k, k + 1 < len → (ovsPush h len x).getD (k + 1) posZero = h.getD k posZero) ∧
    (∀ k, len ≤ k → (ovsPush h len x).getD k posZero = h.getD k posZero)

/-- R188, R190, R191: `OVS.UP` makes `ACT_OSF` samples of `BUFHI` from each sample of `BUFLO`, in order, carrying the histories
along; `BUFLO` and the other units' state stay. Which history cells `NF` watches, all that a push moves (ws), is the
model's reading of R191 (log 14). -/
def Obligations.OvsUpFillsTheHighRateBuffer : Prop :=
  ∀ (c : Nat) (s : State), RunsOn s c .ovs → s.actOsf = 2#3 ∨ s.actOsf = 4#3 →
    ∃ (t : State) (st : Nat → Vector OvsStage 2) (ys ws : Nat → List Num32), exec (.ovsUp c) s = .next t ∧
      st 0 = (s.chan c).ovs ∧
      (∀ i, UpSample Config.params s.actOsf (st i) ((s.chan c).read s.drawKey .lo i) (st (i + 1)) (ys i) (ws i)) ∧
      (∀ i, (ys i).length = s.actOsf.toNat) ∧
      (∀ i j, i < s.blklen.toNat → j < s.actOsf.toNat →
        memGet (t.chan c).bufHi (s.actOsf.toNat * i + j) = (ys i)[j]?) ∧
      (∀ k, s.blklen.toNat * s.actOsf.toNat ≤ k → memGet (t.chan c).bufHi k = memGet (s.chan c).bufHi k) ∧
      t.chan c = { s.chan c with ovs := st s.blklen.toNat, bufHi := (t.chan c).bufHi } ∧
      ProcessFrame s t c ∧
      (t.nf = true ↔ s.nf = true ∨
        ∃ i, i < s.blklen.toNat ∧ ∃ v, (v ∈ ys i ∨ v ∈ ws i) ∧ finite v = false)

/-- R189, R190, R192: `OVS.DOWN` makes each sample of `BUFLO` from `ACT_OSF` samples of `BUFHI`, in order, carrying the
histories along; `BUFHI` and the other units' state stay. Which history cells `NF` watches, all that a push moves (ws),
is the model's reading of R192 (log 14). -/
def Obligations.OvsDownFillsTheBaseRateBuffer : Prop :=
  ∀ (c : Nat) (s : State), RunsOn s c .ovs → s.actOsf = 2#3 ∨ s.actOsf = 4#3 →
    ∃ (t : State) (st : Nat → Vector OvsStage 2) (y : Nat → Num32) (ws : Nat → List Num32),
      exec (.ovsDown c) s = .next t ∧
      st 0 = (s.chan c).ovs ∧
      (∀ i, DownSample Config.params s.actOsf (st i)
        (fun j => (s.chan c).read s.drawKey .hi (s.actOsf.toNat * i + j)) (st (i + 1)) (y i) (ws i)) ∧
      BlockHolds s t c .lo s.blklen.toNat y ∧
      t.chan c = { s.chan c with ovs := st s.blklen.toNat, bufLo := (t.chan c).bufLo } ∧
      ProcessFrame s t c ∧
      (t.nf = true ↔ s.nf = true ∨
        ∃ i, i < s.blklen.toNat ∧ ∃ v, (v = y i ∨ v ∈ ws i) ∧ finite v = false)

/-! ## Unit BQC (R201 to R203) -/

/-- R201, R203: `BQC.RUN` runs sections f to l in series on each sample in order; a section's new state is its input,
its last input, its output and its last output; sections outside the range are untouched.
Where R205's sentence on zero state and input differs from R201's equation, R201 is followed (log 20). -/
def Obligations.BqcRunIteratesTheCascade : Prop :=
  ∀ (c : Nat) (b : BufSel) (f l : Nat) (s : State), RunsOn s c .bqc → f ≤ l → l < Config.params.nsec →
    ∃ (t : State) (st : Nat → Vector BiquadState 16) (x : Nat → Nat → Num32), exec (.bqcRun c b f l) s = .next t ∧
      st 0 = (s.chan c).bs ∧
      (∀ i, x i f = (s.chan c).read s.drawKey b i) ∧
      (∀ i (j : Fin 16), f ≤ j.val → j.val ≤ l →
        SectionSample s.bq[j] (st i)[j] (x i j.val) (x i (j.val + 1)) ∧
        (st (i + 1))[j] =
          { x1 := x i j.val, x2 := ((st i)[j]).x1, y1 := x i (j.val + 1), y2 := ((st i)[j]).y1 }) ∧
      (∀ i (j : Fin 16), j.val < f ∨ l < j.val → (st (i + 1))[j] = (st i)[j]) ∧
      BlockHolds s t c b (lenOf s b) (fun i => x i (l + 1)) ∧
      (t.chan c).bs = st (lenOf s b) ∧ (t.chan c).dsV = (s.chan c).dsV ∧ (t.chan c).ts = (s.chan c).ts ∧
      (t.chan c).ovs = (s.chan c).ovs ∧
      ProcessFrame s t c ∧
      FlagRecords s t (fun v => ∃ i, i < lenOf s b ∧
        (v = x i (l + 1) ∨ ∃ j : Fin 16, f ≤ j.val ∧ j.val ≤ l ∧ v ∈ ((st (i + 1))[j]).values))

/-- R202: the identity section hands on every finite sample while its state is finite; only a zero may change sign. -/
def Obligations.IdentitySectionPassesFiniteSamples : Prop :=
  ∀ (t : BiquadState) (d : Draw) (x : Num32), finite x = true → allFinite t.values = true →
    (isZero x = false → sectionOut ⟨0x3F800000#32, 0#32, 0#32, 0#32, 0#32⟩ t d x = x) ∧
    (isZero x = true → isZero (sectionOut ⟨0x3F800000#32, 0#32, 0#32, 0#32, 0#32⟩ t d x) = true)

/-! ## Channels (R85) -/

/-- R85: a command for channel c changes no other channel, and what it does to channel c and to the registers does not
depend on any other channel. That the words read from unwritten cells (those `STBLK` pushes among them) and the patterns
of produced NaNs are equal in both states is no rule, R74 and R11 leave them arbitrary: it is the model's choice, whose
free values are keyed by the count of command words, the sample and the operation (logs 2, 3 and 4). -/
def Obligations.ChannelsAreIndependent : Prop :=
  ∀ (i : Instr) (c : Nat), channelOf i = some c →
    (∀ s t : State, exec i s = .next t → ∀ e, e ≠ c → t.chan e = s.chan e) ∧
    (∀ s s' t : State, s' = { s with chans := s'.chans } → s'.chan c = s.chan c → exec i s = .next t →
      ∃ t', exec i s' = .next t' ∧ t'.chan c = t.chan c ∧ t' = { t with chans := t'.chans })

/-! ## Invariants -/

/-- The invariants hold right after hardware reset, in every instance. The clauses on the canonical form of the buffers
(log 3) and on the cells an instance does not have (log 10) are about the model's own representation. -/
def Obligations.ResetStateIsLegal : Prop := ∀ P : Params, Legal P State.reset

/-- R49, R72, R231: every step keeps the sample memories inside their bounds; and in canonical form, which is the model's
own representation (log 3). -/
def Obligations.StepKeepsTheBuffersInForm : Prop :=
  ∀ s t : State, BuffersCanonical s → BuffersInBounds s → step s = .next t →
    BuffersCanonical t ∧ BuffersInBounds t

/-- R23, R24, R34, R112, R213: every step keeps the fault record, the configuration in force and the untouched state of
an unprepared block as the rules say. -/
def Obligations.StepKeepsTheRecordsConsistent : Prop :=
  ∀ s t : State, FaultRecordAgrees s → ConfigInForceLegal Config.params s → UntouchedUntilPrepared s →
    step s = .next t →
    FaultRecordAgrees t ∧ ConfigInForceLegal Config.params t ∧ UntouchedUntilPrepared t

/-- R45, R47, R48, R54: no step reaches a channel from `ACT_NCH` on, a section from `NSEC` on or a history cell from its
branch's length on; that the model holds such cells is its own choice (log 10). -/
def Obligations.StepLeavesTheUnreachableReset : Prop :=
  ∀ s t : State, UnreachableIsReset Config.params s → step s = .next t → UnreachableIsReset Config.params t

/-- R218: while `NF` is 0 every state cell and every derived constant is finite; every step keeps that. -/
def Obligations.StepKeepsFiniteUnlessFlagged : Prop :=
  ∀ s t : State, FiniteUnlessFlagged s → step s = .next t → FiniteUnlessFlagged t

/-! ## Arithmetic (R8, R11, R12) -/

/-- R8: sums and differences of finite numbers are the exact ones, rounded once. -/
def Obligations.SumIsRoundedOnce : Prop :=
  ∀ (d : Draw) (a b : Num32), finite a = true → finite b = true →
    RoundsTo ((numValue a : ℝ) + (numValue b : ℝ)) (fadd d a b) ∧
    RoundsTo ((numValue a : ℝ) - (numValue b : ℝ)) (fsub d a b)

/-- R8: products of finite numbers are the exact ones, rounded once, with the sign of the factors' signs; for a product
that is zero that sign is presumed from IEEE 754 (log 11). -/
def Obligations.ProductIsRoundedOnce : Prop :=
  ∀ (d : Draw) (a b : Num32), finite a = true → finite b = true →
    RoundsTo ((numValue a : ℝ) * (numValue b : ℝ)) (fmul d a b) ∧
    signOf (fmul d a b) = (signOf a != signOf b)

/-- R8: quotients of finite numbers by a number that is not zero are the exact ones, rounded once, with the sign of the
operands' signs; for a quotient that is zero that sign is presumed from IEEE 754 (log 11). -/
def Obligations.QuotientIsRoundedOnce : Prop :=
  ∀ (d : Draw) (a b : Num32), finite a = true → finite b = true → isZero b = false →
    RoundsTo ((numValue a : ℝ) / (numValue b : ℝ)) (fdiv d a b) ∧
    signOf (fdiv d a b) = (signOf a != signOf b)

/-- R8, R174: the square root of a finite number that is not negative is the exact one, rounded once. -/
def Obligations.RootIsRoundedOnce : Prop :=
  ∀ (d : Draw) (a : Num32), finite a = true → 0 ≤ numValue a →
    RoundsTo (Real.sqrt (numValue a : ℝ)) (fsqrt d a)

/-- R8, R11, R219: exactly the invalid operations and the NaN operands give a NaN; which operations are invalid is
presumed from IEEE 754 (log 11). -/
def Obligations.InvalidOperationsGiveANan : Prop :=
  ∀ (d : Draw) (a b : Num32),
    (isNan (fadd d a b) = true ↔
      isNan a = true ∨ isNan b = true ∨ (isInf a = true ∧ isInf b = true ∧ signOf a ≠ signOf b)) ∧
    (isNan (fsub d a b) = true ↔
      isNan a = true ∨ isNan b = true ∨ (isInf a = true ∧ isInf b = true ∧ signOf a = signOf b)) ∧
    (isNan (fmul d a b) = true ↔
      isNan a = true ∨ isNan b = true ∨ (isInf a = true ∧ isZero b = true) ∨ (isZero a = true ∧ isInf b = true)) ∧
    (isNan (fdiv d a b) = true ↔
      isNan a = true ∨ isNan b = true ∨ (isInf a = true ∧ isInf b = true) ∨ (isZero a = true ∧ isZero b = true)) ∧
    (isNan (fsqrt d a) = true ↔ isNan a = true ∨ (signOf a = true ∧ isZero a = false))

/-- R12: the helpers, all exact. -/
def Obligations.HelpersAreExact : Prop :=
  (∀ a : Num32, (fabs a).toNat = a.toNat % 2 ^ 31) ∧
  (∀ a : Num32, (fneg a).msb = !a.msb ∧ (fneg a).toNat % 2 ^ 31 = a.toNat % 2 ^ 31) ∧
  (∀ a b : Num32, isNan a = true ∨ isNan b = true → flt a b = false ∧ feq a b = false) ∧
  (∀ a b : Num32, finite a = true → finite b = true →
    (flt a b = true ↔ numValue a < numValue b) ∧ (feq a b = true ↔ numValue a = numValue b)) ∧
  (∀ a b : Num32, fmin a b = (if flt b a then b else a) ∧ fmax a b = (if flt a b then b else a)) ∧
  (∀ p m : Num32,
    (flt posZero p = true → fsigned p m = m) ∧ (flt p posZero = true → fsigned p m = fneg m) ∧
    (isZero p = true → fsigned p m = posZero) ∧ (isNan p = true → fsigned p m = p)) ∧
  (∀ a : Num32, finite a = true ↔ isNan a = false ∧ isInf a = false) ∧
  (∀ k : Nat, k ≤ 2 ^ 24 → finite (numOf k) = true ∧ numValue (numOf k) = k)

/-- R6: the type of a component value holds exactly the finite numbers greater than zero, and that of a bound of the
domain of `omega` exactly the numbers from 1.5 up and from -1.5 down. -/
def Obligations.ComponentValuesArePositive : Prop :=
  (∀ p : PosNum32, finite p.num = true ∧ flt posZero p.num = true) ∧
  (∀ a : Num32, finite a = true → flt posZero a = true → ∃ p : PosNum32, p.num = a) ∧
  (∀ a : Num32, (∃ b : DomainBound, b.upper = a) ↔ isNan a = false ∧ flt a 0x3FC00000#32 = false) ∧
  (∀ a : Num32, (∃ b : DomainBound, b.lower = a) ↔ isNan a = false ∧ flt 0xBFC00000#32 a = false)
end

