-- ==== Sys2Proof/Laws/Float.lean ====
section
/-! SUPPORT. Binary32 words and rounding (spec R8): a word as a sign and bits 30:0, the order of the magnitudes, and what
`roundMag` gives: a neighbour on the grid around the exact value, the even one of two at the same distance. -/

namespace Sys2Proof.Machine

/-! ### A word as a sign and bits 30:0 -/

/-- Bits 30:0. -/
def magOf (a : Num32) : Nat := a.toNat % 2 ^ 31

/-- The magnitude of bits 30:0, in units of 2^-149. -/
def magUnits (m : Nat) : Nat :=
  if m / 2 ^ 23 = 0 then m % 2 ^ 23 else (2 ^ 23 + m % 2 ^ 23) * 2 ^ (m / 2 ^ 23 - 1)

theorem magOf_lt (a : Num32) : magOf a < 2 ^ 31 := Nat.mod_lt _ (by decide)

theorem signOf_eq (a : Num32) : signOf a = decide (2 ^ 31 ≤ a.toNat) := by
  rw [signOf, BitVec.msb_eq_decide]

theorem toNat_eq (a : Num32) : a.toNat = (if signOf a then 2 ^ 31 else 0) + magOf a := by
  have h1 := a.isLt
  have h2 := signOf_eq a
  unfold magOf
  cases h : signOf a
  · rw [h] at h2
    have : ¬ 2 ^ 31 ≤ a.toNat := by simpa using h2.symm
    simp
    omega
  · rw [h] at h2
    have : 2 ^ 31 ≤ a.toNat := by simpa using h2.symm
    simp
    omega

theorem pack_toNat (s : Bool) {m : Nat} (h : m < 2 ^ 31) : (pack s m).toNat = (if s then 2 ^ 31 else 0) + m := by
  unfold pack
  rw [BitVec.toNat_ofNat]
  cases s <;> simp <;> omega

/-- A word is its sign and its bits 30:0. -/
theorem pack_magOf (a : Num32) : pack (signOf a) (magOf a) = a := by
  apply BitVec.eq_of_toNat_eq
  rw [pack_toNat _ (magOf_lt a), ← toNat_eq]

@[simp] theorem magOf_pack (s : Bool) {m : Nat} (h : m < 2 ^ 31) : magOf (pack s m) = m := by
  unfold magOf
  rw [pack_toNat s h]
  cases s <;> simp <;> omega

@[simp] theorem signOf_pack (s : Bool) {m : Nat} (h : m < 2 ^ 31) : signOf (pack s m) = s := by
  rw [signOf_eq, pack_toNat s h]
  cases s
  · simp; omega
  · simp

/-- Two words with the same sign and the same bits 30:0 are equal. -/
theorem eq_of_sign_mag {a b : Num32} (hs : signOf a = signOf b) (hm : magOf a = magOf b) : a = b := by
  rw [← pack_magOf a, ← pack_magOf b, hs, hm]

theorem expField_eq (a : Num32) : expField a = magOf a / 2 ^ 23 := by unfold expField magOf; omega

theorem fracField_eq (a : Num32) : fracField a = magOf a % 2 ^ 23 := by unfold fracField magOf; omega

theorem units_eq (a : Num32) : units a = magUnits (magOf a) := by
  unfold units magUnits; rw [expField_eq, fracField_eq]

/-! ### The classes of a word, by its bits 30:0 -/

theorem isNan_iff (a : Num32) : isNan a = true ↔ 0x7F800000 < magOf a := by
  have := magOf_lt a
  unfold isNan; rw [expField_eq, fracField_eq]; simp; omega

theorem isInf_iff (a : Num32) : isInf a = true ↔ magOf a = 0x7F800000 := by
  have := magOf_lt a
  unfold isInf; rw [expField_eq, fracField_eq]; simp; omega

theorem isZero_iff (a : Num32) : isZero a = true ↔ magOf a = 0 := by
  have := magOf_lt a
  unfold isZero; rw [expField_eq, fracField_eq]; simp; omega

theorem finite_iff (a : Num32) : finite a = true ↔ magOf a < 0x7F800000 := by
  have := magOf_lt a
  unfold finite; rw [expField_eq]; simp; omega

theorem finite_not_nan {a : Num32} (h : finite a = true) : isNan a = false := by
  rw [← Bool.not_eq_true, isNan_iff]; rw [finite_iff] at h; omega

theorem finite_not_inf {a : Num32} (h : finite a = true) : isInf a = false := by
  rw [← Bool.not_eq_true, isInf_iff]; rw [finite_iff] at h; omega

theorem finite_of_not {a : Num32} (hn : isNan a = false) (hi : isInf a = false) : finite a = true := by
  rw [← Bool.not_eq_true, isNan_iff] at hn
  rw [← Bool.not_eq_true, isInf_iff] at hi
  rw [finite_iff]; omega

theorem nan_not_finite {a : Num32} (h : isNan a = true) : finite a = false := by
  rw [← Bool.not_eq_true, finite_iff]; rw [isNan_iff] at h; omega

/-- The free NaN is a NaN (R11). -/
@[simp] theorem freeNan_isNan (d : Draw) : isNan (freeNan d) = true := by
  have : 0x7F800000 + 1 + (Config.freeNanBits d).toNat % (2 ^ 23 - 1) < 2 ^ 31 := by omega
  rw [isNan_iff, freeNan, magOf_pack _ this]; omega

theorem orNan_none (d : Draw) : isNan (orNan d none) = true := freeNan_isNan d

theorem orNan_some (d : Draw) (y : Num32) : orNan d (some y) = y := rfl

/-! ### The order of the magnitudes -/

/-- The next magnitude is `2^e` units on, `e` the exponent less one. -/
theorem magUnits_succ (m : Nat) : magUnits (m + 1) = magUnits m + 2 ^ (m / 2 ^ 23 - 1) := by
  unfold magUnits
  by_cases h : (m + 1) % 2 ^ 23 = 0
  · have h1 : (m + 1) / 2 ^ 23 = m / 2 ^ 23 + 1 := by omega
    have h2 : m % 2 ^ 23 = 2 ^ 23 - 1 := by omega
    rw [h, h1, h2]
    by_cases h0 : m / 2 ^ 23 = 0
    · rw [h0]; rfl
    · obtain ⟨e, he⟩ : ∃ e, m / 2 ^ 23 = e + 1 := ⟨m / 2 ^ 23 - 1, by omega⟩
      rw [he]
      simp
      rw [Nat.pow_succ]
      omega
  · have h1 : (m + 1) / 2 ^ 23 = m / 2 ^ 23 := by omega
    have h2 : (m + 1) % 2 ^ 23 = m % 2 ^ 23 + 1 := by omega
    rw [h1, h2]
    split
    · rename_i h0; rw [h0]; rfl
    · rw [← Nat.add_assoc, Nat.add_mul, Nat.one_mul]

theorem magUnits_lt_succ (m : Nat) : magUnits m < magUnits (m + 1) := by
  rw [magUnits_succ]
  have : 0 < 2 ^ (m / 2 ^ 23 - 1) := Nat.pow_pos (by decide)
  omega

/-- The magnitudes stand in the order of their words. -/
theorem magUnits_lt {m n : Nat} (h : m < n) : magUnits m < magUnits n := by
  induction n with
  | zero => omega
  | succ n ih =>
    by_cases hm : m = n
    · subst hm; exact magUnits_lt_succ m
    · exact Nat.lt_trans (ih (by omega)) (magUnits_lt_succ n)

theorem magUnits_le {m n : Nat} (h : m ≤ n) : magUnits m ≤ magUnits n := by
  by_cases he : m = n
  · exact Nat.le_of_eq (congrArg _ he)
  · exact Nat.le_of_lt (magUnits_lt (by omega))

theorem magUnits_inj {m n : Nat} (h : magUnits m = magUnits n) : m = n := by
  rcases Nat.lt_trichotomy m n with hlt | heq | hgt
  · have := magUnits_lt hlt; omega
  · exact heq
  · have := magUnits_lt hgt; omega

/-- A significand of at most 2^24 units of 2^shift, as the word `roundMag` builds for it. -/
theorem magUnits_grid (shift k : Nat) (hk : k ≤ 2 ^ 24) (hs : shift = 0 ∨ 2 ^ 23 ≤ k) :
    magUnits (shift * 2 ^ 23 + k) = k * 2 ^ shift := by
  unfold magUnits
  by_cases h0 : k < 2 ^ 23
  · have : shift = 0 := by omega
    subst this
    have h1 : (0 * 2 ^ 23 + k) / 2 ^ 23 = 0 := by omega
    rw [if_pos h1]
    omega
  · by_cases h1 : k = 2 ^ 24
    · subst h1
      have h2 : (shift * 2 ^ 23 + 2 ^ 24) / 2 ^ 23 = shift + 2 := by omega
      have h3 : (shift * 2 ^ 23 + 2 ^ 24) % 2 ^ 23 = 0 := by omega
      rw [h2, h3, if_neg (by omega)]
      have h4 : shift + 2 - 1 = shift + 1 := by omega
      rw [h4, Nat.pow_succ]
      omega
    · have h2 : (shift * 2 ^ 23 + k) / 2 ^ 23 = shift + 1 := by omega
      have h3 : (shift * 2 ^ 23 + k) % 2 ^ 23 = k - 2 ^ 23 := by omega
      have h4 : 2 ^ 23 + (k - 2 ^ 23) = k := by omega
      rw [h2, h3, if_neg (by omega), h4, Nat.add_sub_cancel]

/-! ### Rounding -/

/-- `roundQuot n d` is a nearest whole number to n/d, and the even one of two. -/
theorem roundQuot_spec (n : Nat) {d : Nat} (hd : 0 < d) :
    2 * n ≤ (2 * roundQuot n d + 1) * d ∧ 2 * (roundQuot n d * d) ≤ 2 * n + d ∧
    ((2 * n = (2 * roundQuot n d + 1) * d ∨ 2 * (roundQuot n d * d) = 2 * n + d) → roundQuot n d % 2 = 0) := by
  have h1 : n = n / d * d + n % d := by rw [Nat.mul_comm]; exact (Nat.div_add_mod n d).symm
  have h2 := Nat.mod_lt n hd
  unfold roundQuot
  generalize n / d = q at *
  generalize n % d = r at *
  subst h1
  dsimp only
  split
  · rw [Nat.add_mul, Nat.mul_assoc]
    generalize q * d = z
    refine ⟨by omega, by omega, by omega⟩
  · split
    · have e1 : (2 * (q + 1) + 1) * d = 2 * (q * d) + 3 * d := by
        rw [Nat.add_mul, Nat.mul_add, Nat.add_mul, Nat.mul_assoc]; omega
      have e2 : (q + 1) * d = q * d + d := by rw [Nat.add_mul, Nat.one_mul]
      rw [e1, e2]
      generalize q * d = z
      refine ⟨by omega, by omega, by omega⟩
    · have hr : 2 * r = d := by omega
      rcases Nat.mod_two_eq_zero_or_one q with hq | hq
      · have e : q + q % 2 = q := by omega
        rw [e, Nat.add_mul, Nat.mul_assoc]
        generalize q * d = z
        refine ⟨by omega, by omega, fun _ => hq⟩
      · have e : q + q % 2 = q + 1 := by omega
        have e1 : (2 * (q + 1) + 1) * d = 2 * (q * d) + 3 * d := by
          rw [Nat.add_mul, Nat.mul_add, Nat.add_mul, Nat.mul_assoc]; omega
        have e2 : (q + 1) * d = q * d + d := by rw [Nat.add_mul, Nat.one_mul]
        rw [e, e1, e2]
        generalize q * d = z
        refine ⟨by omega, by omega, fun _ => by omega⟩

/-- What `roundMag` gives for n/d: the word of k units of the spacing 2^shift around n/d, with k a nearest whole number,
the even one of two; or infinity's bits when that word is at or above them. -/
theorem roundMag_spec (n : Nat) {d : Nat} (hd : 0 < d) :
    ∃ shift k : Nat, roundMag n d = min (shift * 2 ^ 23 + k) 0x7F800000 ∧ k ≤ 2 ^ 24 ∧
      (shift = 0 ∨ 2 ^ 23 ≤ k) ∧ (shift = 0 ∨ 2 ^ (23 + shift) * d ≤ n) ∧ n < 2 ^ (24 + shift) * d ∧
      2 * n ≤ (2 * k + 1) * (d * 2 ^ shift) ∧ 2 * (k * (d * 2 ^ shift)) ≤ 2 * n + d * 2 ^ shift ∧
      ((2 * n = (2 * k + 1) * (d * 2 ^ shift) ∨ 2 * (k * (d * 2 ^ shift)) = 2 * n + d * 2 ^ shift) → k % 2 = 0) := by
  have hpos : 0 < d * 2 ^ (Nat.log2 (n / d) - 23) := Nat.mul_pos hd (Nat.pow_pos (by decide))
  have hr := roundQuot_spec n hpos
  have hlog : n / d ≠ 0 → 2 ^ Nat.log2 (n / d) ≤ n / d ∧ n / d < 2 ^ (Nat.log2 (n / d) + 1) := fun h =>
    ⟨Nat.log2_self_le h, Nat.lt_log2_self⟩
  refine ⟨Nat.log2 (n / d) - 23, roundQuot n (d * 2 ^ (Nat.log2 (n / d) - 23)), rfl, ?_⟩
  generalize hs : Nat.log2 (n / d) - 23 = shift at *
  generalize roundQuot n (d * 2 ^ shift) = k at *
  have hhi : n < 2 ^ (24 + shift) * d := by
    apply (Nat.div_lt_iff_lt_mul hd).mp
    by_cases h0 : n / d = 0
    · rw [h0]; exact Nat.pow_pos (by decide)
    · exact Nat.lt_of_lt_of_le (hlog h0).2 (Nat.pow_le_pow_right (by decide) (by omega))
  have hlo : shift = 0 ∨ 2 ^ (23 + shift) * d ≤ n := by
    by_cases hz : shift = 0
    · exact .inl hz
    · right
      have h0 : n / d ≠ 0 := by
        intro h; rw [h] at hs; simp at hs; omega
      apply (Nat.le_div_iff_mul_le hd).mp
      refine Nat.le_trans ?_ (hlog h0).1
      exact Nat.pow_le_pow_right (by decide) (by omega)
  have e24 : 2 ^ (24 + shift) * d = 2 ^ 24 * (d * 2 ^ shift) := by
    rw [Nat.pow_add]; ac_rfl
  have e23 : 2 ^ (23 + shift) * d = 2 ^ 23 * (d * 2 ^ shift) := by
    rw [Nat.pow_add]; ac_rfl
  refine ⟨?_, ?_, hlo, hhi, hr⟩
  · by_cases hk : k ≤ 2 ^ 24
    · exact hk
    · exfalso
      have h1 : (2 ^ 24 + 1) * (d * 2 ^ shift) ≤ k * (d * 2 ^ shift) := Nat.mul_le_mul_right _ (by omega)
      rw [e24] at hhi
      rw [Nat.add_mul, Nat.one_mul] at h1
      generalize d * 2 ^ shift = z at *
      generalize k * z = y at *
      omega
  · rcases hlo with hz | hlo
    · exact .inl hz
    · right
      by_cases hk : 2 ^ 23 ≤ k
      · exact hk
      · exfalso
        have h1 : (k + 1) * (d * 2 ^ shift) ≤ 2 ^ 23 * (d * 2 ^ shift) := Nat.mul_le_mul_right _ (by omega)
        have h2 := hr.1
        rw [e23] at hlo
        rw [Nat.add_mul, Nat.one_mul] at h1
        rw [Nat.add_mul, Nat.one_mul, Nat.mul_assoc] at h2
        generalize d * 2 ^ shift = z at *
        generalize k * z = y at *
        omega

/-- `roundMag` never goes above infinity's bits. -/
theorem roundMag_le (n d : Nat) : roundMag n d ≤ 0x7F800000 := Nat.min_le_right _ _

theorem roundMag_lt (n d : Nat) : roundMag n d < 2 ^ 31 := Nat.lt_of_le_of_lt (roundMag_le n d) (by decide)

/-- Rounding a magnitude that a finite word has gives the word's bits: nothing is rounded away. -/
theorem roundMag_magUnits {m : Nat} (h : m < 0x7F800000) : roundMag (magUnits m) 1 = m := by
  obtain ⟨shift, k, hm, hk, hsk, hlo, hhi, h1, h2, -⟩ := roundMag_spec (magUnits m) (d := 1) Nat.one_pos
  have hg := magUnits_grid shift k hk hsk
  simp only [Nat.one_mul, Nat.mul_one] at *
  have key : magUnits m = magUnits (shift * 2 ^ 23 + k) := by
    rw [hg]
    have hdvd : ∃ j, magUnits m = j * 2 ^ shift := by
      rcases hlo with hz | hlo
      · exact ⟨magUnits m, by simp [hz]⟩
      · have hb : magUnits (shift * 2 ^ 23 + 2 ^ 23) = 2 ^ (23 + shift) := by
          rw [magUnits_grid shift (2 ^ 23) (by decide) (.inr (Nat.le_refl _)), Nat.pow_add]
        have hle : shift * 2 ^ 23 + 2 ^ 23 ≤ m := by
          by_cases hc : shift * 2 ^ 23 + 2 ^ 23 ≤ m
          · exact hc
          · have := magUnits_lt (Nat.lt_of_not_le hc); omega
        have he : shift + 1 ≤ m / 2 ^ 23 := by omega
        refine ⟨(2 ^ 23 + m % 2 ^ 23) * 2 ^ (m / 2 ^ 23 - 1 - shift), ?_⟩
        unfold magUnits
        rw [if_neg (by omega), Nat.mul_assoc, ← Nat.pow_add]
        congr 2
        omega
    obtain ⟨j, hj⟩ := hdvd
    rw [hj] at h1 h2 ⊢
    have hp : 0 < 2 ^ shift := Nat.pow_pos (by decide)
    congr 1
    generalize 2 ^ shift = z at *
    rcases Nat.lt_trichotomy j k with hlt | heq | hgt
    · exfalso
      have : (j + 1) * z ≤ k * z := Nat.mul_le_mul_right _ hlt
      rw [Nat.add_mul, Nat.one_mul] at this
      generalize j * z = a at *
      generalize k * z = b at *
      omega
    · exact heq
    · exfalso
      have : (k + 1) * z ≤ j * z := Nat.mul_le_mul_right _ hgt
      rw [Nat.add_mul, Nat.one_mul] at this h1
      rw [Nat.mul_assoc] at h1
      generalize j * z = a at *
      generalize k * z = b at *
      omega
  have := magUnits_inj key
  omega

/-- A finite word packed again from its magnitude in units. -/
theorem pack_roundMag_units {a : Num32} (h : finite a = true) : pack (signOf a) (roundMag (units a) 1) = a := by
  rw [units_eq, roundMag_magUnits ((finite_iff a).mp h), pack_magOf]

/-- A rounded word is never a NaN. -/
theorem pack_roundMag_not_nan (s : Bool) (n d : Nat) : isNan (pack s (roundMag n d)) = false := by
  rw [← Bool.not_eq_true, isNan_iff, magOf_pack _ (roundMag_lt n d)]
  have := roundMag_le n d
  omega

/-! ### The integer square root -/

/-- Between two squares the bits from the highest down give the whole part of the root. -/
theorem natSqrtFrom_spec (n : Nat) : ∀ (bits root : Nat), root * root ≤ n →
    n < (root + 2 ^ bits) * (root + 2 ^ bits) →
    natSqrtFrom n bits root * natSqrtFrom n bits root ≤ n ∧
    n < (natSqrtFrom n bits root + 1) * (natSqrtFrom n bits root + 1) := by
  intro bits
  induction bits with
  | zero => intro root h1 h2; exact ⟨h1, h2⟩
  | succ bits ih =>
    intro root h1 h2
    unfold natSqrtFrom
    split
    · rename_i h
      refine ih _ h ?_
      rw [Nat.add_assoc, ← Nat.two_mul, ← Nat.pow_succ']
      exact h2
    · rename_i h
      exact ih _ h1 (by omega)

/-- `natSqrt` is the whole part of the square root below 2^426. -/
theorem natSqrt_spec {n : Nat} (h : n < 2 ^ 213 * 2 ^ 213) :
    natSqrt n * natSqrt n ≤ n ∧ n < (natSqrt n + 1) * (natSqrt n + 1) := by
  apply natSqrtFrom_spec n 213 0 (Nat.zero_le _)
  rw [Nat.zero_add]
  exact h

end Sys2Proof.Machine
end

