-- ==== Sys2Proof/Laws/Arith.lean ====
section
/-! SUPPORT. The operations of R8 and R12 on zeros, on one and on NaN operands, and how little of a result a free NaN can
reach. -/

namespace Sys2Proof.Machine

/-! ### Signs and magnitudes of the exact helpers (R12) -/

theorem magOf_fneg (a : Num32) : magOf (fneg a) = magOf a := by
  unfold magOf fneg
  have h : (a ^^^ 0x80000000#32).setWidth 31 = a.setWidth 31 := by
    apply BitVec.eq_of_getLsbD_eq
    intro i hi
    have h2 : (0x80000000#32).getLsbD i = false := by
      have : (0x80000000#32) = BitVec.twoPow 32 31 := by decide
      rw [this, BitVec.getLsbD_twoPow]
      simp; omega
    rw [BitVec.getLsbD_setWidth, BitVec.getLsbD_setWidth, BitVec.getLsbD_xor, h2, Bool.xor_false]
  have := congrArg BitVec.toNat h
  rwa [BitVec.toNat_setWidth, BitVec.toNat_setWidth] at this

theorem signOf_fneg (a : Num32) : signOf (fneg a) = !signOf a := by
  unfold signOf fneg
  rw [BitVec.msb_xor]
  have : (0x80000000#32).msb = true := by decide
  rw [this, Bool.xor_true]

theorem magOf_fabs (a : Num32) : magOf (fabs a) = magOf a := by
  unfold magOf fabs
  have : (0x7FFFFFFF#32).toNat = 2 ^ 31 - 1 := by decide
  rw [BitVec.toNat_and, this, Nat.and_two_pow_sub_one_eq_mod]
  omega

theorem signOf_fabs (a : Num32) : signOf (fabs a) = false := by
  unfold signOf fabs
  rw [BitVec.msb_and]
  have : (0x7FFFFFFF#32).msb = false := by decide
  rw [this, Bool.and_false]

@[simp] theorem isNan_fneg (a : Num32) : isNan (fneg a) = isNan a := by
  rw [Bool.eq_iff_iff, isNan_iff, isNan_iff, magOf_fneg]

@[simp] theorem isInf_fneg (a : Num32) : isInf (fneg a) = isInf a := by
  rw [Bool.eq_iff_iff, isInf_iff, isInf_iff, magOf_fneg]

@[simp] theorem isZero_fneg (a : Num32) : isZero (fneg a) = isZero a := by
  rw [Bool.eq_iff_iff, isZero_iff, isZero_iff, magOf_fneg]

@[simp] theorem finite_fneg (a : Num32) : finite (fneg a) = finite a := by
  rw [Bool.eq_iff_iff, finite_iff, finite_iff, magOf_fneg]

@[simp] theorem isNan_fabs (a : Num32) : isNan (fabs a) = isNan a := by
  rw [Bool.eq_iff_iff, isNan_iff, isNan_iff, magOf_fabs]

@[simp] theorem isZero_fabs (a : Num32) : isZero (fabs a) = isZero a := by
  rw [Bool.eq_iff_iff, isZero_iff, isZero_iff, magOf_fabs]

@[simp] theorem finite_fabs (a : Num32) : finite (fabs a) = finite a := by
  rw [Bool.eq_iff_iff, finite_iff, finite_iff, magOf_fabs]

theorem zero_finite {a : Num32} (h : isZero a = true) : finite a = true := by
  rw [finite_iff]; rw [isZero_iff] at h; omega

/-- A zero is one of two words. -/
theorem zero_eq {a : Num32} (h : isZero a = true) : a = zeroOf (signOf a) := by
  rw [isZero_iff] at h
  have e := pack_magOf a
  rw [h] at e
  exact e.symm

theorem isZero_zeroOf (s : Bool) : isZero (zeroOf s) = true := by cases s <;> decide

theorem signOf_zeroOf (s : Bool) : signOf (zeroOf s) = s := by cases s <;> decide

theorem posZero_eq : posZero = zeroOf false := by decide

/-- +0.0 is the zero with the sign bit clear. -/
theorem eq_posZero {a : Num32} (h : isZero a = true) (hs : signOf a = false) : a = posZero := by
  rw [zero_eq h, hs]; decide

theorem units_zero {a : Num32} (h : isZero a = true) : units a = 0 := by
  rw [units_eq, (isZero_iff a).mp h]; decide

theorem signedUnits_zero {a : Num32} (h : isZero a = true) : signedUnits a = 0 := by
  unfold signedUnits; rw [units_zero h]; split <;> rfl

theorem units_pos {a : Num32} (h : isZero a = false) : 0 < units a := by
  have h2 : magOf a ≠ 0 := by rw [← Bool.not_eq_true, isZero_iff] at h; exact h
  rw [units_eq]
  exact Nat.lt_of_le_of_lt (Nat.zero_le _) (magUnits_lt (Nat.pos_of_ne_zero h2))

theorem signedUnits_ne_zero {a : Num32} (h : isZero a = false) : signedUnits a ≠ 0 := by
  have := units_pos h
  unfold signedUnits; split <;> omega

/-- Packing the exact value of a finite word that is not a zero gives the word back. -/
theorem roundUnits_signedUnits {a : Num32} (hf : finite a = true) (hz : isZero a = false) :
    roundUnits (signedUnits a) = a := by
  have h := pack_roundMag_units hf
  have hp := units_pos hz
  unfold roundUnits signedUnits
  cases hs : signOf a
  · rw [hs] at h
    have h2 : decide ((units a : Int) < 0) = false := by simp
    simp only [Bool.false_eq_true, if_false, h2, Int.natAbs_natCast]
    exact h
  · rw [hs] at h
    have h2 : decide (-(units a : Int) < 0) = true := by simp; omega
    simp only [if_true, h2, Int.natAbs_neg, Int.natAbs_natCast]
    exact h

/-! ### Comparisons (R11, R12) -/

/-- `0 < a`, by sign and magnitude. -/
theorem flt_posZero (a : Num32) : flt posZero a = (!isNan a && !isZero a && !signOf a) := by
  have h0 : isNan posZero = false := by decide
  have h1 : signedUnits posZero = 0 := by decide
  unfold flt
  rw [h0, h1, Bool.not_false, Bool.true_and]
  cases hz : isZero a
  · have hp := units_pos hz
    cases hs : signOf a <;> simp [signedUnits, hs, hp]
  · rw [signedUnits_zero hz]; simp

/-- `a < 0`, by sign and magnitude. -/
theorem flt_negative (a : Num32) : flt a posZero = (!isNan a && !isZero a && signOf a) := by
  have h0 : isNan posZero = false := by decide
  have h1 : signedUnits posZero = 0 := by decide
  unfold flt
  rw [h0, h1]
  cases hz : isZero a
  · have hp := units_pos hz
    cases hs : signOf a <;> simp [signedUnits, hs, hp]
  · rw [signedUnits_zero hz]; simp

/-- `a == 0.0` is true of both zeros and of nothing else. -/
theorem feq_posZero (a : Num32) : feq a posZero = isZero a := by
  have h0 : isNan posZero = false := by decide
  have h1 : signedUnits posZero = 0 := by decide
  unfold feq
  rw [h0, h1]
  cases hz : isZero a
  · have := signedUnits_ne_zero hz; simp [this]
  · rw [signedUnits_zero hz, finite_not_nan (zero_finite hz)]; rfl

/-! ### Sums and products with zeros -/

/-- A sum with a zero is the other operand, when that is neither a zero nor a NaN. -/
theorem fadd_zero (d : Draw) {a b : Num32} (ha : isNan a = false) (hz : isZero a = false) (hb : isZero b = true) :
    fadd d a b = a := by
  have hbf := zero_finite hb
  unfold fadd add?
  rw [ha, finite_not_nan hbf, finite_not_inf hbf, signedUnits_zero hb, Int.add_zero]
  cases hi : isInf a
  · simp [signedUnits_ne_zero hz, orNan, roundUnits_signedUnits (finite_of_not ha hi) hz]
  · simp [orNan]

theorem zero_fadd (d : Draw) {a b : Num32} (ha : isZero a = true) (hb : isNan b = false) (hz : isZero b = false) :
    fadd d a b = b := by
  have haf := zero_finite ha
  unfold fadd add?
  rw [hb, finite_not_nan haf, finite_not_inf haf, signedUnits_zero ha, Int.zero_add]
  cases hi : isInf b
  · simp [signedUnits_ne_zero hz, orNan, roundUnits_signedUnits (finite_of_not hb hi) hz]
  · simp [orNan]

/-- A sum of two zeros is -0.0 for two -0.0, else +0.0. -/
theorem fadd_zeros (d : Draw) {a b : Num32} (ha : isZero a = true) (hb : isZero b = true) :
    fadd d a b = zeroOf (signOf a && signOf b) := by
  have haf := zero_finite ha
  have hbf := zero_finite hb
  unfold fadd add?
  rw [finite_not_nan haf, finite_not_inf haf, finite_not_nan hbf, finite_not_inf hbf, signedUnits_zero ha,
    signedUnits_zero hb]
  simp [orNan]

/-- A difference is the sum with the other sign (R12). -/
theorem fsub_eq (d : Draw) (a b : Num32) : fsub d a b = fadd d a (fneg b) := rfl

/-- A difference of equal finite numbers is +0.0. -/
theorem fsub_self (d : Draw) {a : Num32} (ha : finite a = true) : fsub d a a = posZero := by
  have h : signedUnits a + signedUnits (fneg a) = 0 := by
    unfold signedUnits
    rw [units_eq, units_eq, magOf_fneg, signOf_fneg]
    cases signOf a <;> simp
  unfold fsub add?
  rw [isNan_fneg, isInf_fneg, finite_not_nan ha, finite_not_inf ha, h, signOf_fneg]
  cases signOf a <;> simp [orNan] <;> decide

/-- A product of finite numbers, one of them a zero. -/
theorem fmul_zero (d : Draw) {a b : Num32} (ha : finite a = true) (hb : isZero b = true) :
    fmul d a b = zeroOf (signOf a != signOf b) := by
  have hbf := zero_finite hb
  have hr : ∀ n, roundMag 0 n = 0 := by intro n; unfold roundMag roundQuot; simp
  unfold fmul mul?
  rw [finite_not_nan ha, finite_not_inf ha, finite_not_nan hbf, finite_not_inf hbf, units_zero hb, Nat.mul_zero, hr]
  rfl

/-- A product with 1.0 is the other operand. -/
theorem one_fmul (d : Draw) {a : Num32} (ha : finite a = true) : fmul d numOne a = a := by
  have h1 : finite numOne = true := by decide
  have hs : signOf numOne = false := by decide
  have hu : units numOne = 2 ^ 149 := by decide
  have hr : roundMag (2 ^ 149 * units a) (2 ^ 149) = roundMag (units a) 1 := by
    have hp : 0 < 2 ^ 149 := by decide
    have e : ∀ k, roundQuot (2 ^ 149 * units a) (2 ^ 149 * 2 ^ k) = roundQuot (units a) (1 * 2 ^ k) := by
      intro k
      unfold roundQuot
      rw [Nat.mul_div_mul_left _ _ hp, Nat.mul_mod_mul_left, Nat.one_mul]
      dsimp only
      generalize units a % 2 ^ k = r
      generalize 2 ^ k = z
      have e1 : (2 * (2 ^ 149 * r) < 2 ^ 149 * z) = (2 * r < z) := by
        rw [Nat.mul_left_comm]; exact propext (Nat.mul_lt_mul_left hp)
      have e2 : (2 ^ 149 * z < 2 * (2 ^ 149 * r)) = (z < 2 * r) := by
        rw [Nat.mul_left_comm]; exact propext (Nat.mul_lt_mul_left hp)
      simp only [e1, e2]
    unfold roundMag
    rw [Nat.mul_div_cancel_left _ hp, Nat.div_one]
    dsimp only
    rw [e]
  unfold fmul mul?
  rw [finite_not_nan ha, finite_not_inf ha, finite_not_nan h1, finite_not_inf h1, hs, hu, hr]
  simp only [Bool.or_self, Bool.false_eq_true, if_false, Bool.false_bne]
  exact pack_roundMag_units ha

/-! ### NaN operands -/

theorem fadd_nan (d : Draw) {a b : Num32} (h : isNan a = true ∨ isNan b = true) : isNan (fadd d a b) = true := by
  unfold fadd add?
  rcases h with h | h <;> simp [h, orNan]

theorem fsub_nan (d : Draw) {a b : Num32} (h : isNan a = true ∨ isNan b = true) : isNan (fsub d a b) = true :=
  fadd_nan d (by rwa [isNan_fneg])

theorem fmul_nan (d : Draw) {a b : Num32} (h : isNan a = true ∨ isNan b = true) : isNan (fmul d a b) = true := by
  unfold fmul mul?
  rcases h with h | h <;> simp [h, orNan]

theorem fdiv_nan (d : Draw) {a b : Num32} (h : isNan a = true ∨ isNan b = true) : isNan (fdiv d a b) = true := by
  unfold fdiv div?
  rcases h with h | h <;> simp [h, orNan]

theorem fsqrt_nan (d : Draw) {a : Num32} (h : isNan a = true) : isNan (fsqrt d a) = true := by
  unfold fsqrt sqrt?
  simp [h, orNan]

theorem gdiv_nan (P : Params) (d : Draw) {n m : Num32} (h : isNan n = true ∨ isNan m = true) :
    isNan (gdiv P d n m) = true := by
  rcases h with h | h
  · exact fdiv_nan _ (.inl h)
  · exact fdiv_nan _ (.inr (fadd_nan _ (.inl h)))

end Sys2Proof.Machine
end

