-- ==== Sys2Proof/Laws/State.lean ====
section
/-! SUPPORT. What each named update of the state does to each field: one lemma per field per update, so that no later
proof unfolds a record update. -/

namespace Sys2Proof.Machine

/-! ### advance (R26) -/

section

variable (s : State)

@[simp] theorem advance_prepared : (advance s).prepared = s.prepared := rfl
@[simp] theorem advance_faulted : (advance s).faulted = s.faulted := rfl
@[simp] theorem advance_nf : (advance s).nf = s.nf := rfl
@[simp] theorem advance_fault : (advance s).fault = s.fault := rfl
@[simp] theorem advance_faultCc : (advance s).faultCc = s.faultCc := rfl
@[simp] theorem advance_cc : (advance s).cc = s.cc + 1 := rfl
@[simp] theorem advance_bypass : (advance s).bypass = s.bypass := rfl
@[simp] theorem advance_blklen : (advance s).blklen = s.blklen := rfl
@[simp] theorem advance_chsel : (advance s).chsel = s.chsel := rfl
@[simp] theorem advance_cfgSr : (advance s).cfgSr = s.cfgSr := rfl
@[simp] theorem advance_cfgMaxblk : (advance s).cfgMaxblk = s.cfgMaxblk := rfl
@[simp] theorem advance_cfgNch : (advance s).cfgNch = s.cfgNch := rfl
@[simp] theorem advance_cfgOsf : (advance s).cfgOsf = s.cfgOsf := rfl
@[simp] theorem advance_actSr : (advance s).actSr = s.actSr := rfl
@[simp] theorem advance_actMaxblk : (advance s).actMaxblk = s.actMaxblk := rfl
@[simp] theorem advance_actNch : (advance s).actNch = s.actNch := rfl
@[simp] theorem advance_actOsf : (advance s).actOsf = s.actOsf := rfl
@[simp] theorem advance_fsProc : (advance s).fsProc = s.fsProc := rfl
@[simp] theorem advance_dk : (advance s).dk = s.dk := rfl
@[simp] theorem advance_ok : (advance s).ok = s.ok := rfl
@[simp] theorem advance_tk : (advance s).tk = s.tk := rfl
@[simp] theorem advance_bq : (advance s).bq = s.bq := rfl
@[simp] theorem advance_chans : (advance s).chans = s.chans := rfl
@[simp] theorem advance_cmds : (advance s).cmds = s.cmds := rfl
@[simp] theorem advance_din : (advance s).din = s.din := rfl
@[simp] theorem advance_dout : (advance s).dout = s.dout := rfl
@[simp] theorem advance_draws : (advance s).draws = s.draws + 1 := rfl

end

/-! ### raiseFault (R212) -/

section

variable (code : FaultCode) (s : State)

@[simp] theorem raiseFault_prepared : (raiseFault code s).prepared = s.prepared := rfl
@[simp] theorem raiseFault_faulted : (raiseFault code s).faulted = true := rfl
@[simp] theorem raiseFault_nf : (raiseFault code s).nf = s.nf := rfl
@[simp] theorem raiseFault_fault : (raiseFault code s).fault = code.code := rfl
@[simp] theorem raiseFault_faultCc : (raiseFault code s).faultCc = s.cc := rfl
@[simp] theorem raiseFault_cc : (raiseFault code s).cc = s.cc := rfl
@[simp] theorem raiseFault_bypass : (raiseFault code s).bypass = s.bypass := rfl
@[simp] theorem raiseFault_blklen : (raiseFault code s).blklen = s.blklen := rfl
@[simp] theorem raiseFault_chsel : (raiseFault code s).chsel = s.chsel := rfl
@[simp] theorem raiseFault_cfgSr : (raiseFault code s).cfgSr = s.cfgSr := rfl
@[simp] theorem raiseFault_cfgMaxblk : (raiseFault code s).cfgMaxblk = s.cfgMaxblk := rfl
@[simp] theorem raiseFault_cfgNch : (raiseFault code s).cfgNch = s.cfgNch := rfl
@[simp] theorem raiseFault_cfgOsf : (raiseFault code s).cfgOsf = s.cfgOsf := rfl
@[simp] theorem raiseFault_actSr : (raiseFault code s).actSr = s.actSr := rfl
@[simp] theorem raiseFault_actMaxblk : (raiseFault code s).actMaxblk = s.actMaxblk := rfl
@[simp] theorem raiseFault_actNch : (raiseFault code s).actNch = s.actNch := rfl
@[simp] theorem raiseFault_actOsf : (raiseFault code s).actOsf = s.actOsf := rfl
@[simp] theorem raiseFault_fsProc : (raiseFault code s).fsProc = s.fsProc := rfl
@[simp] theorem raiseFault_dk : (raiseFault code s).dk = s.dk := rfl
@[simp] theorem raiseFault_ok : (raiseFault code s).ok = s.ok := rfl
@[simp] theorem raiseFault_tk : (raiseFault code s).tk = s.tk := rfl
@[simp] theorem raiseFault_bq : (raiseFault code s).bq = s.bq := rfl
@[simp] theorem raiseFault_chans : (raiseFault code s).chans = s.chans := rfl
@[simp] theorem raiseFault_cmds : (raiseFault code s).cmds = s.cmds := rfl
@[simp] theorem raiseFault_din : (raiseFault code s).din = s.din := rfl
@[simp] theorem raiseFault_dout : (raiseFault code s).dout = s.dout := rfl
@[simp] theorem raiseFault_draws : (raiseFault code s).draws = s.draws := rfl

end

/-! ### setChan (R83) -/

section

variable (s : State) (c : Nat) (ch : Channel)

@[simp] theorem setChan_prepared : (s.setChan c ch).prepared = s.prepared := rfl
@[simp] theorem setChan_faulted : (s.setChan c ch).faulted = s.faulted := rfl
@[simp] theorem setChan_nf : (s.setChan c ch).nf = s.nf := rfl
@[simp] theorem setChan_fault : (s.setChan c ch).fault = s.fault := rfl
@[simp] theorem setChan_faultCc : (s.setChan c ch).faultCc = s.faultCc := rfl
@[simp] theorem setChan_cc : (s.setChan c ch).cc = s.cc := rfl
@[simp] theorem setChan_bypass : (s.setChan c ch).bypass = s.bypass := rfl
@[simp] theorem setChan_blklen : (s.setChan c ch).blklen = s.blklen := rfl
@[simp] theorem setChan_chsel : (s.setChan c ch).chsel = s.chsel := rfl
@[simp] theorem setChan_cfgSr : (s.setChan c ch).cfgSr = s.cfgSr := rfl
@[simp] theorem setChan_cfgMaxblk : (s.setChan c ch).cfgMaxblk = s.cfgMaxblk := rfl
@[simp] theorem setChan_cfgNch : (s.setChan c ch).cfgNch = s.cfgNch := rfl
@[simp] theorem setChan_cfgOsf : (s.setChan c ch).cfgOsf = s.cfgOsf := rfl
@[simp] theorem setChan_actSr : (s.setChan c ch).actSr = s.actSr := rfl
@[simp] theorem setChan_actMaxblk : (s.setChan c ch).actMaxblk = s.actMaxblk := rfl
@[simp] theorem setChan_actNch : (s.setChan c ch).actNch = s.actNch := rfl
@[simp] theorem setChan_actOsf : (s.setChan c ch).actOsf = s.actOsf := rfl
@[simp] theorem setChan_fsProc : (s.setChan c ch).fsProc = s.fsProc := rfl
@[simp] theorem setChan_dk : (s.setChan c ch).dk = s.dk := rfl
@[simp] theorem setChan_ok : (s.setChan c ch).ok = s.ok := rfl
@[simp] theorem setChan_tk : (s.setChan c ch).tk = s.tk := rfl
@[simp] theorem setChan_bq : (s.setChan c ch).bq = s.bq := rfl
@[simp] theorem setChan_chans : (s.setChan c ch).chans = s.chans.setIfInBounds c ch := rfl
@[simp] theorem setChan_cmds : (s.setChan c ch).cmds = s.cmds := rfl
@[simp] theorem setChan_din : (s.setChan c ch).din = s.din := rfl
@[simp] theorem setChan_dout : (s.setChan c ch).dout = s.dout := rfl
@[simp] theorem setChan_draws : (s.setChan c ch).draws = s.draws := rfl

end

/-! ### dropDin (R116) -/

section

variable (n : Nat) (s : State)

@[simp] theorem dropDin_prepared : (dropDin n s).prepared = s.prepared := rfl
@[simp] theorem dropDin_faulted : (dropDin n s).faulted = s.faulted := rfl
@[simp] theorem dropDin_nf : (dropDin n s).nf = s.nf := rfl
@[simp] theorem dropDin_fault : (dropDin n s).fault = s.fault := rfl
@[simp] theorem dropDin_faultCc : (dropDin n s).faultCc = s.faultCc := rfl
@[simp] theorem dropDin_cc : (dropDin n s).cc = s.cc := rfl
@[simp] theorem dropDin_bypass : (dropDin n s).bypass = s.bypass := rfl
@[simp] theorem dropDin_blklen : (dropDin n s).blklen = s.blklen := rfl
@[simp] theorem dropDin_chsel : (dropDin n s).chsel = s.chsel := rfl
@[simp] theorem dropDin_cfgSr : (dropDin n s).cfgSr = s.cfgSr := rfl
@[simp] theorem dropDin_cfgMaxblk : (dropDin n s).cfgMaxblk = s.cfgMaxblk := rfl
@[simp] theorem dropDin_cfgNch : (dropDin n s).cfgNch = s.cfgNch := rfl
@[simp] theorem dropDin_cfgOsf : (dropDin n s).cfgOsf = s.cfgOsf := rfl
@[simp] theorem dropDin_actSr : (dropDin n s).actSr = s.actSr := rfl
@[simp] theorem dropDin_actMaxblk : (dropDin n s).actMaxblk = s.actMaxblk := rfl
@[simp] theorem dropDin_actNch : (dropDin n s).actNch = s.actNch := rfl
@[simp] theorem dropDin_actOsf : (dropDin n s).actOsf = s.actOsf := rfl
@[simp] theorem dropDin_fsProc : (dropDin n s).fsProc = s.fsProc := rfl
@[simp] theorem dropDin_dk : (dropDin n s).dk = s.dk := rfl
@[simp] theorem dropDin_ok : (dropDin n s).ok = s.ok := rfl
@[simp] theorem dropDin_tk : (dropDin n s).tk = s.tk := rfl
@[simp] theorem dropDin_bq : (dropDin n s).bq = s.bq := rfl
@[simp] theorem dropDin_chans : (dropDin n s).chans = s.chans := rfl
@[simp] theorem dropDin_cmds : (dropDin n s).cmds = s.cmds := rfl
@[simp] theorem dropDin_din : (dropDin n s).din = s.din.drop n := rfl
@[simp] theorem dropDin_dout : (dropDin n s).dout = s.dout := rfl
@[simp] theorem dropDin_draws : (dropDin n s).draws = s.draws := rfl

end

/-! ### pushDout (R115, R118) -/

section

variable (ws : List Word) (s : State)

@[simp] theorem pushDout_prepared : (pushDout ws s).prepared = s.prepared := rfl
@[simp] theorem pushDout_faulted : (pushDout ws s).faulted = s.faulted := rfl
@[simp] theorem pushDout_nf : (pushDout ws s).nf = s.nf := rfl
@[simp] theorem pushDout_fault : (pushDout ws s).fault = s.fault := rfl
@[simp] theorem pushDout_faultCc : (pushDout ws s).faultCc = s.faultCc := rfl
@[simp] theorem pushDout_cc : (pushDout ws s).cc = s.cc := rfl
@[simp] theorem pushDout_bypass : (pushDout ws s).bypass = s.bypass := rfl
@[simp] theorem pushDout_blklen : (pushDout ws s).blklen = s.blklen := rfl
@[simp] theorem pushDout_chsel : (pushDout ws s).chsel = s.chsel := rfl
@[simp] theorem pushDout_cfgSr : (pushDout ws s).cfgSr = s.cfgSr := rfl
@[simp] theorem pushDout_cfgMaxblk : (pushDout ws s).cfgMaxblk = s.cfgMaxblk := rfl
@[simp] theorem pushDout_cfgNch : (pushDout ws s).cfgNch = s.cfgNch := rfl
@[simp] theorem pushDout_cfgOsf : (pushDout ws s).cfgOsf = s.cfgOsf := rfl
@[simp] theorem pushDout_actSr : (pushDout ws s).actSr = s.actSr := rfl
@[simp] theorem pushDout_actMaxblk : (pushDout ws s).actMaxblk = s.actMaxblk := rfl
@[simp] theorem pushDout_actNch : (pushDout ws s).actNch = s.actNch := rfl
@[simp] theorem pushDout_actOsf : (pushDout ws s).actOsf = s.actOsf := rfl
@[simp] theorem pushDout_fsProc : (pushDout ws s).fsProc = s.fsProc := rfl
@[simp] theorem pushDout_dk : (pushDout ws s).dk = s.dk := rfl
@[simp] theorem pushDout_ok : (pushDout ws s).ok = s.ok := rfl
@[simp] theorem pushDout_tk : (pushDout ws s).tk = s.tk := rfl
@[simp] theorem pushDout_bq : (pushDout ws s).bq = s.bq := rfl
@[simp] theorem pushDout_chans : (pushDout ws s).chans = s.chans := rfl
@[simp] theorem pushDout_cmds : (pushDout ws s).cmds = s.cmds := rfl
@[simp] theorem pushDout_din : (pushDout ws s).din = s.din := rfl
@[simp] theorem pushDout_dout : (pushDout ws s).dout = s.dout ++ ws := rfl
@[simp] theorem pushDout_draws : (pushDout ws s).draws = s.draws := rfl

end

/-! ### resetUnits (R113) -/

section

variable (m : BitVec 6) (s : State)

@[simp] theorem resetUnits_prepared : (resetUnits m s).prepared = s.prepared := rfl
@[simp] theorem resetUnits_faulted : (resetUnits m s).faulted = s.faulted := rfl
@[simp] theorem resetUnits_nf : (resetUnits m s).nf = s.nf := rfl
@[simp] theorem resetUnits_fault : (resetUnits m s).fault = s.fault := rfl
@[simp] theorem resetUnits_faultCc : (resetUnits m s).faultCc = s.faultCc := rfl
@[simp] theorem resetUnits_cc : (resetUnits m s).cc = s.cc := rfl
@[simp] theorem resetUnits_bypass : (resetUnits m s).bypass = s.bypass := rfl
@[simp] theorem resetUnits_blklen : (resetUnits m s).blklen = s.blklen := rfl
@[simp] theorem resetUnits_chsel : (resetUnits m s).chsel = s.chsel := rfl
@[simp] theorem resetUnits_cfgSr : (resetUnits m s).cfgSr = s.cfgSr := rfl
@[simp] theorem resetUnits_cfgMaxblk : (resetUnits m s).cfgMaxblk = s.cfgMaxblk := rfl
@[simp] theorem resetUnits_cfgNch : (resetUnits m s).cfgNch = s.cfgNch := rfl
@[simp] theorem resetUnits_cfgOsf : (resetUnits m s).cfgOsf = s.cfgOsf := rfl
@[simp] theorem resetUnits_actSr : (resetUnits m s).actSr = s.actSr := rfl
@[simp] theorem resetUnits_actMaxblk : (resetUnits m s).actMaxblk = s.actMaxblk := rfl
@[simp] theorem resetUnits_actNch : (resetUnits m s).actNch = s.actNch := rfl
@[simp] theorem resetUnits_actOsf : (resetUnits m s).actOsf = s.actOsf := rfl
@[simp] theorem resetUnits_fsProc : (resetUnits m s).fsProc = s.fsProc := rfl
@[simp] theorem resetUnits_dk : (resetUnits m s).dk = s.dk := rfl
@[simp] theorem resetUnits_ok : (resetUnits m s).ok = s.ok := rfl
@[simp] theorem resetUnits_tk : (resetUnits m s).tk = s.tk := rfl
@[simp] theorem resetUnits_bq : (resetUnits m s).bq = s.bq := rfl
@[simp] theorem resetUnits_chans : (resetUnits m s).chans = s.chans.map (resetChannel m) := rfl
@[simp] theorem resetUnits_cmds : (resetUnits m s).cmds = s.cmds := rfl
@[simp] theorem resetUnits_din : (resetUnits m s).din = s.din := rfl
@[simp] theorem resetUnits_dout : (resetUnits m s).dout = s.dout := rfl
@[simp] theorem resetUnits_draws : (resetUnits m s).draws = s.draws := rfl

end

/-! ### identityCoefficients (R112) -/

section

variable (s : State)

@[simp] theorem identityCoefficients_prepared : (identityCoefficients s).prepared = s.prepared := rfl
@[simp] theorem identityCoefficients_faulted : (identityCoefficients s).faulted = s.faulted := rfl
@[simp] theorem identityCoefficients_nf : (identityCoefficients s).nf = s.nf := rfl
@[simp] theorem identityCoefficients_fault : (identityCoefficients s).fault = s.fault := rfl
@[simp] theorem identityCoefficients_faultCc : (identityCoefficients s).faultCc = s.faultCc := rfl
@[simp] theorem identityCoefficients_cc : (identityCoefficients s).cc = s.cc := rfl
@[simp] theorem identityCoefficients_bypass : (identityCoefficients s).bypass = s.bypass := rfl
@[simp] theorem identityCoefficients_blklen : (identityCoefficients s).blklen = s.blklen := rfl
@[simp] theorem identityCoefficients_chsel : (identityCoefficients s).chsel = s.chsel := rfl
@[simp] theorem identityCoefficients_cfgSr : (identityCoefficients s).cfgSr = s.cfgSr := rfl
@[simp] theorem identityCoefficients_cfgMaxblk : (identityCoefficients s).cfgMaxblk = s.cfgMaxblk := rfl
@[simp] theorem identityCoefficients_cfgNch : (identityCoefficients s).cfgNch = s.cfgNch := rfl
@[simp] theorem identityCoefficients_cfgOsf : (identityCoefficients s).cfgOsf = s.cfgOsf := rfl
@[simp] theorem identityCoefficients_actSr : (identityCoefficients s).actSr = s.actSr := rfl
@[simp] theorem identityCoefficients_actMaxblk : (identityCoefficients s).actMaxblk = s.actMaxblk := rfl
@[simp] theorem identityCoefficients_actNch : (identityCoefficients s).actNch = s.actNch := rfl
@[simp] theorem identityCoefficients_actOsf : (identityCoefficients s).actOsf = s.actOsf := rfl
@[simp] theorem identityCoefficients_fsProc : (identityCoefficients s).fsProc = s.fsProc := rfl
@[simp] theorem identityCoefficients_dk : (identityCoefficients s).dk = s.dk := rfl
@[simp] theorem identityCoefficients_ok : (identityCoefficients s).ok = s.ok := rfl
@[simp] theorem identityCoefficients_tk : (identityCoefficients s).tk = s.tk := rfl
@[simp] theorem identityCoefficients_bq : (identityCoefficients s).bq = Vector.replicate 16 Biquad.identity := rfl
@[simp] theorem identityCoefficients_chans : (identityCoefficients s).chans = s.chans := rfl
@[simp] theorem identityCoefficients_cmds : (identityCoefficients s).cmds = s.cmds := rfl
@[simp] theorem identityCoefficients_din : (identityCoefficients s).din = s.din := rfl
@[simp] theorem identityCoefficients_dout : (identityCoefficients s).dout = s.dout := rfl
@[simp] theorem identityCoefficients_draws : (identityCoefficients s).draws = s.draws := rfl

end

/-! ### forgetAllBuffers (R112) -/

section

variable (s : State)

@[simp] theorem forgetAllBuffers_prepared : (forgetAllBuffers s).prepared = s.prepared := rfl
@[simp] theorem forgetAllBuffers_faulted : (forgetAllBuffers s).faulted = s.faulted := rfl
@[simp] theorem forgetAllBuffers_nf : (forgetAllBuffers s).nf = s.nf := rfl
@[simp] theorem forgetAllBuffers_fault : (forgetAllBuffers s).fault = s.fault := rfl
@[simp] theorem forgetAllBuffers_faultCc : (forgetAllBuffers s).faultCc = s.faultCc := rfl
@[simp] theorem forgetAllBuffers_cc : (forgetAllBuffers s).cc = s.cc := rfl
@[simp] theorem forgetAllBuffers_bypass : (forgetAllBuffers s).bypass = s.bypass := rfl
@[simp] theorem forgetAllBuffers_blklen : (forgetAllBuffers s).blklen = s.blklen := rfl
@[simp] theorem forgetAllBuffers_chsel : (forgetAllBuffers s).chsel = s.chsel := rfl
@[simp] theorem forgetAllBuffers_cfgSr : (forgetAllBuffers s).cfgSr = s.cfgSr := rfl
@[simp] theorem forgetAllBuffers_cfgMaxblk : (forgetAllBuffers s).cfgMaxblk = s.cfgMaxblk := rfl
@[simp] theorem forgetAllBuffers_cfgNch : (forgetAllBuffers s).cfgNch = s.cfgNch := rfl
@[simp] theorem forgetAllBuffers_cfgOsf : (forgetAllBuffers s).cfgOsf = s.cfgOsf := rfl
@[simp] theorem forgetAllBuffers_actSr : (forgetAllBuffers s).actSr = s.actSr := rfl
@[simp] theorem forgetAllBuffers_actMaxblk : (forgetAllBuffers s).actMaxblk = s.actMaxblk := rfl
@[simp] theorem forgetAllBuffers_actNch : (forgetAllBuffers s).actNch = s.actNch := rfl
@[simp] theorem forgetAllBuffers_actOsf : (forgetAllBuffers s).actOsf = s.actOsf := rfl
@[simp] theorem forgetAllBuffers_fsProc : (forgetAllBuffers s).fsProc = s.fsProc := rfl
@[simp] theorem forgetAllBuffers_dk : (forgetAllBuffers s).dk = s.dk := rfl
@[simp] theorem forgetAllBuffers_ok : (forgetAllBuffers s).ok = s.ok := rfl
@[simp] theorem forgetAllBuffers_tk : (forgetAllBuffers s).tk = s.tk := rfl
@[simp] theorem forgetAllBuffers_bq : (forgetAllBuffers s).bq = s.bq := rfl
@[simp] theorem forgetAllBuffers_chans : (forgetAllBuffers s).chans = s.chans.map forgetBuffers := rfl
@[simp] theorem forgetAllBuffers_cmds : (forgetAllBuffers s).cmds = s.cmds := rfl
@[simp] theorem forgetAllBuffers_din : (forgetAllBuffers s).din = s.din := rfl
@[simp] theorem forgetAllBuffers_dout : (forgetAllBuffers s).dout = s.dout := rfl
@[simp] theorem forgetAllBuffers_draws : (forgetAllBuffers s).draws = s.draws := rfl

end

/-! ### markPrepared (R112, R218) -/

section

variable (s : State)

@[simp] theorem markPrepared_prepared : (markPrepared s).prepared = true := rfl
@[simp] theorem markPrepared_faulted : (markPrepared s).faulted = s.faulted := rfl
@[simp] theorem markPrepared_nf : (markPrepared s).nf = (s.nf || !allFinite (derivedValues s)) := rfl
@[simp] theorem markPrepared_fault : (markPrepared s).fault = s.fault := rfl
@[simp] theorem markPrepared_faultCc : (markPrepared s).faultCc = s.faultCc := rfl
@[simp] theorem markPrepared_cc : (markPrepared s).cc = s.cc := rfl
@[simp] theorem markPrepared_bypass : (markPrepared s).bypass = s.bypass := rfl
@[simp] theorem markPrepared_blklen : (markPrepared s).blklen = s.blklen := rfl
@[simp] theorem markPrepared_chsel : (markPrepared s).chsel = s.chsel := rfl
@[simp] theorem markPrepared_cfgSr : (markPrepared s).cfgSr = s.cfgSr := rfl
@[simp] theorem markPrepared_cfgMaxblk : (markPrepared s).cfgMaxblk = s.cfgMaxblk := rfl
@[simp] theorem markPrepared_cfgNch : (markPrepared s).cfgNch = s.cfgNch := rfl
@[simp] theorem markPrepared_cfgOsf : (markPrepared s).cfgOsf = s.cfgOsf := rfl
@[simp] theorem markPrepared_actSr : (markPrepared s).actSr = s.actSr := rfl
@[simp] theorem markPrepared_actMaxblk : (markPrepared s).actMaxblk = s.actMaxblk := rfl
@[simp] theorem markPrepared_actNch : (markPrepared s).actNch = s.actNch := rfl
@[simp] theorem markPrepared_actOsf : (markPrepared s).actOsf = s.actOsf := rfl
@[simp] theorem markPrepared_fsProc : (markPrepared s).fsProc = s.fsProc := rfl
@[simp] theorem markPrepared_dk : (markPrepared s).dk = s.dk := rfl
@[simp] theorem markPrepared_ok : (markPrepared s).ok = s.ok := rfl
@[simp] theorem markPrepared_tk : (markPrepared s).tk = s.tk := rfl
@[simp] theorem markPrepared_bq : (markPrepared s).bq = s.bq := rfl
@[simp] theorem markPrepared_chans : (markPrepared s).chans = s.chans := rfl
@[simp] theorem markPrepared_cmds : (markPrepared s).cmds = s.cmds := rfl
@[simp] theorem markPrepared_din : (markPrepared s).din = s.din := rfl
@[simp] theorem markPrepared_dout : (markPrepared s).dout = s.dout := rfl
@[simp] theorem markPrepared_draws : (markPrepared s).draws = s.draws := rfl

end

/-! ### latchAndDerive (R112) -/

section

variable (P : Params) (s : State)

@[simp] theorem latchAndDerive_prepared : (latchAndDerive P s).prepared = s.prepared := rfl
@[simp] theorem latchAndDerive_faulted : (latchAndDerive P s).faulted = s.faulted := rfl
@[simp] theorem latchAndDerive_nf : (latchAndDerive P s).nf = s.nf := rfl
@[simp] theorem latchAndDerive_fault : (latchAndDerive P s).fault = s.fault := rfl
@[simp] theorem latchAndDerive_faultCc : (latchAndDerive P s).faultCc = s.faultCc := rfl
@[simp] theorem latchAndDerive_cc : (latchAndDerive P s).cc = s.cc := rfl
@[simp] theorem latchAndDerive_bypass : (latchAndDerive P s).bypass = s.bypass := rfl
@[simp] theorem latchAndDerive_blklen : (latchAndDerive P s).blklen = s.blklen := rfl
@[simp] theorem latchAndDerive_chsel : (latchAndDerive P s).chsel = s.chsel := rfl
@[simp] theorem latchAndDerive_cfgSr : (latchAndDerive P s).cfgSr = s.cfgSr := rfl
@[simp] theorem latchAndDerive_cfgMaxblk : (latchAndDerive P s).cfgMaxblk = s.cfgMaxblk := rfl
@[simp] theorem latchAndDerive_cfgNch : (latchAndDerive P s).cfgNch = s.cfgNch := rfl
@[simp] theorem latchAndDerive_cfgOsf : (latchAndDerive P s).cfgOsf = s.cfgOsf := rfl
@[simp] theorem latchAndDerive_actSr : (latchAndDerive P s).actSr = s.cfgSr := rfl
@[simp] theorem latchAndDerive_actMaxblk : (latchAndDerive P s).actMaxblk = s.cfgMaxblk := rfl
@[simp] theorem latchAndDerive_actNch : (latchAndDerive P s).actNch = s.cfgNch := rfl
@[simp] theorem latchAndDerive_actOsf : (latchAndDerive P s).actOsf = s.cfgOsf := rfl
@[simp] theorem latchAndDerive_fsProc : (latchAndDerive P s).fsProc = fmul (0 :: s.drawKey) s.cfgSr (numOf s.cfgOsf.toNat) := rfl
@[simp] theorem latchAndDerive_dk : (latchAndDerive P s).dk = deriveDws P (1 :: s.drawKey) (fmul (0 :: s.drawKey) s.cfgSr (numOf s.cfgOsf.toNat)) := rfl
@[simp] theorem latchAndDerive_ok : (latchAndDerive P s).ok = deriveOac P (2 :: s.drawKey) := rfl
@[simp] theorem latchAndDerive_tk : (latchAndDerive P s).tk = deriveTri P (3 :: s.drawKey) (fmul (0 :: s.drawKey) s.cfgSr (numOf s.cfgOsf.toNat)) := rfl
@[simp] theorem latchAndDerive_bq : (latchAndDerive P s).bq = s.bq := rfl
@[simp] theorem latchAndDerive_chans : (latchAndDerive P s).chans = s.chans := rfl
@[simp] theorem latchAndDerive_cmds : (latchAndDerive P s).cmds = s.cmds := rfl
@[simp] theorem latchAndDerive_din : (latchAndDerive P s).din = s.din := rfl
@[simp] theorem latchAndDerive_dout : (latchAndDerive P s).dout = s.dout := rfl
@[simp] theorem latchAndDerive_draws : (latchAndDerive P s).draws = s.draws := rfl

end

end Sys2Proof.Machine
end

