-- ==== Sys2Proof/Laws/Memory.lean ====
section
/-! SUPPORT. The sample memories: a read after a write, the canonical form kept by every operation (spec R49, R70). -/

namespace Sys2Proof.Machine

@[simp] theorem memGet_nil (i : Nat) : memGet [] i = none := rfl

/-- A cell that was just written reads as the value written. -/
@[simp] theorem memGet_memSet_same (m : Memory) (i : Nat) (v : Num32) : memGet (memSet m i v) i = some v := by
  induction m with
  | nil => simp [memSet, memGet]
  | cons e rest ih =>
    obtain ⟨j, x⟩ := e
    simp only [memSet]
    split
    · simp [memGet]
    · split
      · simp [memGet]
      · simp [memGet, *]

/-- A write leaves every other cell alone. -/
theorem memGet_memSet_other (m : Memory) (i k : Nat) (v : Num32) (h : k ≠ i) :
    memGet (memSet m i v) k = memGet m k := by
  induction m with
  | nil => simp [memSet, memGet, h]
  | cons e rest ih =>
    obtain ⟨j, x⟩ := e
    simp only [memSet]
    split
    · simp [memGet, h]
    · split
      · rename_i h2; subst h2; simp [memGet, h]
      · simp [memGet, ih]

/-- One cell after one write. -/
theorem memGet_memSet (m : Memory) (i k : Nat) (v : Num32) :
    memGet (memSet m i v) k = if k = i then some v else memGet m k := by
  split
  · rename_i h; rw [h, memGet_memSet_same]
  · rename_i h; exact memGet_memSet_other m i k v h

/-- Every cell after a run of writes: the values stand from `start` on, the rest is as before. -/
theorem memGet_memSetFrom (vs : List Num32) : ∀ (m : Memory) (start k : Nat),
    memGet (memSetFrom m start vs) k
      = if start ≤ k ∧ k < start + vs.length then vs[k - start]? else memGet m k := by
  induction vs with
  | nil =>
    intro m start k
    rw [if_neg (by simp only [List.length_nil]; omega)]
    rfl
  | cons v vs ih =>
    intro m start k
    simp only [memSetFrom, ih, memGet_memSet, List.length_cons]
    by_cases h1 : k = start
    · subst h1
      rw [if_neg (by omega), if_pos rfl, if_pos (by omega), Nat.sub_self, List.getElem?_cons_zero]
    · by_cases h2 : start + 1 ≤ k ∧ k < start + 1 + vs.length
      · have h3 : start ≤ k ∧ k < start + (vs.length + 1) := by omega
        rw [if_pos h2, if_pos h3]
        have h4 : k - start = (k - (start + 1)) + 1 := by omega
        rw [h4, List.getElem?_cons_succ]
      · have h3 : ¬(start ≤ k ∧ k < start + (vs.length + 1)) := by omega
        rw [if_neg h2, if_neg h3, if_neg h1]

/-! ### The canonical form -/

theorem memSet_all_above (m : Memory) (i : Nat) (v : Num32) (j : Nat) (hj : j < i)
    (h : m.all (fun e => decide (j < e.1)) = true) :
    (memSet m i v).all (fun e => decide (j < e.1)) = true := by
  induction m with
  | nil => simp [memSet, hj]
  | cons e rest ih =>
    obtain ⟨k, x⟩ := e
    simp only [List.all_cons, Bool.and_eq_true, decide_eq_true_eq] at h
    simp only [memSet]
    split
    · simp [hj, h.1]
      simpa using h.2
    · split
      · simp [hj]
        simpa using h.2
      · simp only [List.all_cons, Bool.and_eq_true, decide_eq_true_eq]
        exact ⟨h.1, ih h.2⟩

/-- One write keeps the canonical form. -/
theorem memSet_wf (m : Memory) (i : Nat) (v : Num32) (h : Memory.wf m = true) : Memory.wf (memSet m i v) = true := by
  induction m with
  | nil => simp [memSet, Memory.wf]
  | cons e rest ih =>
    obtain ⟨j, x⟩ := e
    simp only [Memory.wf, Bool.and_eq_true] at h
    simp only [memSet]
    split
    · rename_i hlt
      simp only [Memory.wf, Bool.and_eq_true, List.all_cons, decide_eq_true_eq]
      refine ⟨⟨hlt, ?_⟩, h⟩
      have h1 := h.1
      simp only [List.all_eq_true, decide_eq_true_eq] at h1 ⊢
      intro e he
      exact Nat.lt_trans hlt (h1 e he)
    · split
      · rename_i heq
        subst heq
        simpa only [Memory.wf, Bool.and_eq_true] using h
      · simp only [Memory.wf, Bool.and_eq_true]
        exact ⟨memSet_all_above rest i v j (by omega) h.1, ih h.2⟩

/-- A run of writes keeps the canonical form. -/
theorem memSetFrom_wf (vs : List Num32) : ∀ (m : Memory) (start : Nat), Memory.wf m = true →
    Memory.wf (memSetFrom m start vs) = true := by
  induction vs with
  | nil => intro m start h; exact h
  | cons v vs ih => intro m start h; exact ih _ _ (memSet_wf m start v h)

/-- The memories of the reset state have the canonical form. -/
theorem channel_reset_wf : Memory.wf Channel.reset.bufLo = true ∧ Memory.wf Channel.reset.bufHi = true := by
  exact ⟨rfl, rfl⟩

end Sys2Proof.Machine
end

