-- ==== Sys2Proof/Laws/Ops.lean ====
section
/-! SUPPORT. What each shared operation can do, said once: channel access, the checks, the sequencer's treatment of a
command (spec R110, R116, R212, R214). -/

namespace Sys2Proof.Machine

/-! ### Channels -/

/-- A vector's element by number: the default beyond its end. -/
theorem vector_getD {α : Type} {n : Nat} (v : Vector α n) (k : Nat) (x : α) :
    v.getD k x = if h : k < n then v[k] else x := by
  by_cases h : k < n <;> simp [Vector.getD, Array.getD, h]

/-- Channel c as an element of the vector. -/
theorem chan_eq (s : State) (c : Nat) : s.chan c = if h : c < 16 then s.chans[c] else Channel.reset := by
  by_cases h : c < 16 <;> simp [State.chan, Vector.getD, Array.getD, h]

theorem chan_eq_of_chans {s t : State} (h : t.chans = s.chans) (c : Nat) : t.chan c = s.chan c := by
  simp [State.chan, h]

/-- The channel just replaced. -/
theorem chan_setChan_same (s : State) (c : Nat) (ch : Channel) (h : c < 16) : (s.setChan c ch).chan c = ch := by
  simp [chan_eq, State.setChan, h]

/-- Every other channel. -/
theorem chan_setChan_other (s : State) (c e : Nat) (ch : Channel) (h : e ≠ c) :
    (s.setChan c ch).chan e = s.chan e := by
  by_cases he : e < 16 <;> simp [chan_eq, State.setChan, he, Ne.symm h]

/-- A channel number beyond the sixteen changes nothing. -/
theorem setChan_beyond (s : State) (c : Nat) (ch : Channel) (h : 16 ≤ c) : s.setChan c ch = s := by
  have : s.chans.setIfInBounds c ch = s.chans := by
    apply Vector.ext
    intro i hi
    rw [Vector.getElem_setIfInBounds]
    split
    · omega
    · rfl
  simp [State.setChan, this]

/-- A channel beyond the sixteen reads as after reset. -/
theorem chan_beyond (s : State) (c : Nat) (h : 16 ≤ c) : s.chan c = Channel.reset := by
  simp [chan_eq, Nat.not_lt.mpr h]

theorem chan_map (s : State) (f : Channel → Channel) (hf : f Channel.reset = Channel.reset) (c : Nat) :
    ({ s with chans := s.chans.map f } : State).chan c = f (s.chan c) := by
  by_cases h : c < 16 <;> simp [chan_eq, h, hf]

theorem resetChannel_reset (m : BitVec 6) : resetChannel m Channel.reset = Channel.reset := by
  simp [resetChannel, Channel.reset]

/-- Every channel after `reset_units(m)` (R113). -/
theorem resetUnits_chan (m : BitVec 6) (s : State) (c : Nat) : (resetUnits m s).chan c = resetChannel m (s.chan c) :=
  chan_map s _ (resetChannel_reset m) c

/-- Every channel after the buffers are forgotten (R112). -/
theorem forgetAllBuffers_chan (s : State) (c : Nat) : (forgetAllBuffers s).chan c = forgetBuffers (s.chan c) :=
  chan_map s _ rfl c

/-- A selected OVS: both stages' histories are +0.0 (R113). -/
theorem resetChannel_ovs_selected {m : BitVec 6} (h : m.getLsbD 4 = true) (ch : Channel) :
    (resetChannel m ch).ovs = Vector.replicate 2 OvsStage.reset := if_pos h

/-- An OVS that is not selected keeps its histories. -/
theorem resetChannel_ovs_kept {m : BitVec 6} (h : m.getLsbD 4 = false) (ch : Channel) :
    (resetChannel m ch).ovs = ch.ovs := if_neg (by rw [UnitId.bit, h]; exact Bool.false_ne_true)

/-- A selected BQC: every section's state is +0.0 (R113). -/
theorem resetChannel_bs_selected {m : BitVec 6} (h : m.getLsbD 5 = true) (ch : Channel) :
    (resetChannel m ch).bs = Vector.replicate 16 BiquadState.reset := if_pos h

/-- A BQC that is not selected keeps its state. -/
theorem resetChannel_bs_kept {m : BitVec 6} (h : m.getLsbD 5 = false) (ch : Channel) :
    (resetChannel m ch).bs = ch.bs := if_neg (by rw [UnitId.bit, h]; exact Bool.false_ne_true)

@[simp] theorem advance_chan (s : State) (c : Nat) : (advance s).chan c = s.chan c := rfl

@[simp] theorem raiseFault_chan (code : FaultCode) (s : State) (c : Nat) : (raiseFault code s).chan c = s.chan c := rfl

@[simp] theorem dropDin_chan (n : Nat) (s : State) (c : Nat) : (dropDin n s).chan c = s.chan c := rfl

@[simp] theorem pushDout_chan (ws : List Word) (s : State) (c : Nat) : (pushDout ws s).chan c = s.chan c := rfl

@[simp] theorem setBuf_buf_same (ch : Channel) (b : BufSel) (m : Memory) : (ch.setBuf b m).buf b = m := by
  cases b <;> rfl

@[simp] theorem setBuf_dsV (ch : Channel) (b : BufSel) (m : Memory) : (ch.setBuf b m).dsV = ch.dsV := by cases b <;> rfl

@[simp] theorem setBuf_ts (ch : Channel) (b : BufSel) (m : Memory) : (ch.setBuf b m).ts = ch.ts := by cases b <;> rfl

@[simp] theorem setBuf_ovs (ch : Channel) (b : BufSel) (m : Memory) : (ch.setBuf b m).ovs = ch.ovs := by cases b <;> rfl

@[simp] theorem setBuf_bs (ch : Channel) (b : BufSel) (m : Memory) : (ch.setBuf b m).bs = ch.bs := by cases b <;> rfl

/-! ### Checks -/

/-- The three checks pass exactly when the block is prepared, the channel configured and the length in range. -/
theorem blockCheck_none (s : State) (c : Nat) :
    blockCheck s c = none ↔ s.prepared = true ∧ c < s.actNch.toNat ∧ s.blklen.toNat ≤ s.actMaxblk.toNat := by
  unfold blockCheck
  have : (s.actMaxblk < s.blklen) ↔ s.actMaxblk.toNat < s.blklen.toNat := BitVec.lt_def
  cases hp : s.prepared with
  | false => simp
  | true =>
    by_cases hc : s.actNch.toNat ≤ c
    · simp [hc, Nat.not_lt.mpr hc]
    · by_cases hl : s.actMaxblk < s.blklen
      · simp [hc, hl, Nat.not_le.mpr (this.mp hl)]
      · simp [hc, hl, Nat.not_le.mp hc, Nat.not_lt.mp (fun h => hl (this.mpr h))]

/-- The checks of `BQC.RUN` pass exactly when the three do and the sections are in range. -/
theorem sectionCheck_none (P : Params) (s : State) (c f l : Nat) :
    sectionCheck P s c f l = none ↔ blockCheck s c = none ∧ f ≤ l ∧ l < P.nsec := by
  unfold sectionCheck
  cases h : blockCheck s c <;> simp

/-! ### The sequencer -/

/-- `execute` answers a next state only when the words of `din` are there, and then the body's, advanced. -/
theorem execute_next {need : Nat} {body : State → State} {s t : State} (h : execute need body s = .next t) :
    need ≤ s.din.length ∧ t = advance (body s) := by
  unfold execute at h
  split at h
  · cases h
  · cases h; exact ⟨by omega, rfl⟩

/-- Everything a command but `RREG` can do when it answers a next state. -/
theorem command_next {check : Option FaultCode} {need : Nat} {body : State → State} {s t : State}
    (h : command check need body s = .next t) :
    (s.faulted = true ∧ t = advance s) ∨
    (s.faulted = false ∧ ∃ code, check = some code ∧ t = advance (raiseFault code s)) ∨
    (s.faulted = false ∧ check = none ∧ need ≤ s.din.length ∧ t = advance (body s)) := by
  unfold command at h
  split at h
  · rename_i hf; cases h; exact .inl ⟨hf, rfl⟩
  · rename_i hf
    have hf : s.faulted = false := by simpa using hf
    unfold checkThenExecute at h
    split at h
    · cases h; exact .inr (.inl ⟨hf, _, rfl, rfl⟩)
    · have := execute_next h; exact .inr (.inr ⟨hf, rfl, this⟩)

/-- Everything `RREG` can do when it answers a next state. -/
theorem readCommand_next {check : Option FaultCode} {body : State → State} {s t : State}
    (h : readCommand check body s = .next t) :
    (s.faulted = true ∧ check ≠ none ∧ t = advance s) ∨
    (s.faulted = false ∧ ∃ code, check = some code ∧ t = advance (raiseFault code s)) ∨
    (check = none ∧ t = advance (body s)) := by
  unfold readCommand at h
  split at h
  · rename_i hf
    simp only [Bool.and_eq_true] at hf
    cases h
    exact .inl ⟨hf.1, by intro hc; simp [hc] at hf, rfl⟩
  · rename_i hf
    unfold checkThenExecute at h
    split at h
    · cases h
      refine .inr (.inl ⟨?_, _, rfl, rfl⟩)
      simpa using hf
    · exact .inr (.inr ⟨rfl, (execute_next h).2⟩)

/-- A command whose checks pass completes, when the words it needs are there. -/
theorem command_runs {check : Option FaultCode} {need : Nat} {body : State → State} {s : State}
    (hf : s.faulted = false) (hc : check = none) (hn : need ≤ s.din.length) :
    command check need body s = .next (advance (body s)) := by
  simp [command, hf, checkThenExecute, hc, execute, Nat.not_lt.mpr hn]

/-- A command that fails a check records it. -/
theorem command_faults {check : Option FaultCode} {need : Nat} {body : State → State} {s : State} {code : FaultCode}
    (hf : s.faulted = false) (hc : check = some code) :
    command check need body s = .next (advance (raiseFault code s)) := by
  simp [command, hf, checkThenExecute, hc]

/-- A command short of `din` words waits. -/
theorem command_waits {check : Option FaultCode} {need : Nat} {body : State → State} {s : State}
    (hf : s.faulted = false) (hc : check = none) (hn : s.din.length < need) :
    command check need body s = .fault .waitingForDin := by
  simp [command, hf, checkThenExecute, hc, execute, hn]

/-- In the faulted state a command is discarded. -/
theorem command_discards {check : Option FaultCode} {need : Nat} {body : State → State} {s : State}
    (hf : s.faulted = true) : command check need body s = .next (advance s) := by
  simp [command, hf]

/-- What taking a command word does. -/
theorem takeCommand_some {s t : State} {w : Word} (h : takeCommand s = some (w, t)) :
    ∃ rest, s.cmds = w :: rest ∧ t = { s with cmds := rest } := by
  unfold takeCommand at h
  split at h
  · cases h
  · rename_i w' rest hc
    simp only [Option.some.injEq, Prod.mk.injEq] at h
    exact ⟨rest, by rw [hc, h.1], h.2.symm⟩

end Sys2Proof.Machine
end

