-- ==== Sys2Proof/Laws/Block.lean ====
section
/-! SUPPORT. What the block loop and the body of a processing command can do (spec R84, R121, R124): cells already passed
are final, cells not yet reached are as before, the other buffer and every other channel are untouched. -/

namespace Sys2Proof.Machine

/-- One more turn of a loop over `0 .. n`. -/
theorem foldl_range_succ {α : Type} (f : α → Nat → α) (a : α) (n : Nat) :
    (List.range (n + 1)).foldl f a = f ((List.range n).foldl f a) n := by
  simp [List.range_succ]

@[simp] theorem runBlock_zero (b : BufSel) (f : Draw → Channel → Num32 → Sampled) (d : Draw) (w : Work) :
    runBlock b f d 0 w = w := rfl

theorem runBlock_succ (b : BufSel) (f : Draw → Channel → Num32 → Sampled) (d : Draw) (n : Nat) (w : Work) :
    runBlock b f d (n + 1) w = sampleStep b f d (runBlock b f d n w) n :=
  foldl_range_succ _ _ _

/-- The sample function leaves both buffers of the channel alone: true of every unit. -/
def KeepsBuffers (f : Draw → Channel → Num32 → Sampled) : Prop :=
  ∀ d ch x, (f d ch x).ch.bufLo = ch.bufLo ∧ (f d ch x).ch.bufHi = ch.bufHi

theorem KeepsBuffers.buf {f : Draw → Channel → Num32 → Sampled} (h : KeepsBuffers f) (d : Draw) (ch : Channel) (x : Num32)
    (b : BufSel) : (f d ch x).ch.buf b = ch.buf b := by
  cases b
  · exact (h d ch x).1
  · exact (h d ch x).2

theorem write_buf_same (ch : Channel) (b : BufSel) (i : Nat) (v : Num32) :
    (ch.write b i v).buf b = memSet (ch.buf b) i v := by cases b <;> rfl

theorem write_buf_other (ch : Channel) (b e : BufSel) (i : Nat) (v : Num32) (h : e ≠ b) :
    (ch.write b i v).buf e = ch.buf e := by cases b <;> cases e <;> first | rfl | exact absurd rfl h

@[simp] theorem write_dsV (ch : Channel) (b : BufSel) (i : Nat) (v : Num32) : (ch.write b i v).dsV = ch.dsV := by
  cases b <;> rfl

@[simp] theorem write_ts (ch : Channel) (b : BufSel) (i : Nat) (v : Num32) : (ch.write b i v).ts = ch.ts := by
  cases b <;> rfl

@[simp] theorem write_ovs (ch : Channel) (b : BufSel) (i : Nat) (v : Num32) : (ch.write b i v).ovs = ch.ovs := by
  cases b <;> rfl

@[simp] theorem write_bs (ch : Channel) (b : BufSel) (i : Nat) (v : Num32) : (ch.write b i v).bs = ch.bs := by
  cases b <;> rfl

/-- A cell read depends on the buffer alone. -/
theorem read_congr {ch ch' : Channel} {d : Draw} {b : BufSel} {i : Nat}
    (h : memGet (ch.buf b) i = memGet (ch'.buf b) i) : ch.read d b i = ch'.read d b i := by
  simp [Channel.read, h]

/-- The cells from `n` on, and the other buffer, after `n` turns: as before the loop. -/
theorem runBlock_ahead {f : Draw → Channel → Num32 → Sampled} (hf : KeepsBuffers f) (b : BufSel) (d : Draw) (w : Work) :
    ∀ n, (∀ i, n ≤ i → memGet ((runBlock b f d n w).ch.buf b) i = memGet (w.ch.buf b) i) ∧
      (∀ e, e ≠ b → (runBlock b f d n w).ch.buf e = w.ch.buf e) := by
  intro n
  induction n with
  | zero => exact ⟨fun _ _ => rfl, fun _ _ => rfl⟩
  | succ n ih =>
    rw [runBlock_succ]
    refine ⟨fun i hi => ?_, fun e he => ?_⟩
    · simp only [sampleStep, write_buf_same, hf.buf]
      rw [memGet_memSet_other _ _ _ _ (by omega)]
      exact ih.1 i (by omega)
    · simp only [sampleStep]
      rw [write_buf_other _ _ _ _ _ he, hf.buf]
      exact ih.2 e he

/-- Turn i of the loop reads the cell as it was before the loop (R84: never re-read). -/
theorem runBlock_reads {f : Draw → Channel → Num32 → Sampled} (hf : KeepsBuffers f) (b : BufSel) (d e : Draw) (w : Work)
    (n : Nat) : (runBlock b f d n w).ch.read e b n = w.ch.read e b n :=
  read_congr ((runBlock_ahead hf b d w n).1 n (Nat.le_refl n))

/-- The result of turn i of the loop. -/
def turn (b : BufSel) (f : Draw → Channel → Num32 → Sampled) (d : Draw) (w : Work) (i : Nat) : Sampled :=
  f (i :: d) (runBlock b f d i w).ch (w.ch.read d b i)

theorem runBlock_succ_ch {f : Draw → Channel → Num32 → Sampled} (hf : KeepsBuffers f) (b : BufSel) (d : Draw) (w : Work)
    (n : Nat) : (runBlock b f d (n + 1) w).ch = (turn b f d w n).ch.write b n (turn b f d w n).y := by
  rw [runBlock_succ, sampleStep, runBlock_reads hf]
  rfl

/-- A cell below `n` after `n` turns: the output of its turn. -/
theorem runBlock_behind {f : Draw → Channel → Num32 → Sampled} (hf : KeepsBuffers f) (b : BufSel) (d : Draw) (w : Work) :
    ∀ n i, i < n → memGet ((runBlock b f d n w).ch.buf b) i = some (turn b f d w i).y := by
  intro n
  induction n with
  | zero => intro i hi; omega
  | succ n ih =>
    intro i hi
    rw [runBlock_succ_ch hf, write_buf_same]
    by_cases h : i = n
    · subst h; simp
    · rw [memGet_memSet_other _ _ _ _ h]
      have := ih i (by omega)
      rw [turn, hf.buf]
      exact this

/-- `NF` after `n` turns: set before, or a turn wrote a value that is not finite (R121, R218). -/
theorem runBlock_nf {f : Draw → Channel → Num32 → Sampled} (hf : KeepsBuffers f) (b : BufSel) (d : Draw) (w : Work) :
    ∀ n, (runBlock b f d n w).nf = true ↔
      w.nf = true ∨ ∃ i, i < n ∧ (finite (turn b f d w i).y && (turn b f d w i).stateFinite) = false := by
  intro n
  induction n with
  | zero => simp
  | succ n ih =>
    have hstep : (runBlock b f d (n + 1) w).nf
        = ((runBlock b f d n w).nf || !(finite (turn b f d w n).y && (turn b f d w n).stateFinite)) := by
      rw [runBlock_succ, sampleStep, runBlock_reads hf]; rfl
    rw [hstep, Bool.or_eq_true, ih]
    constructor
    · rintro ((h | ⟨i, hi, h⟩) | h)
      · exact .inl h
      · exact .inr ⟨i, by omega, h⟩
      · exact .inr ⟨n, by omega, by rwa [Bool.not_eq_true'] at h⟩
    · rintro (h | ⟨i, hi, h⟩)
      · exact .inl (.inl h)
      · by_cases hin : i = n
        · subst hin; exact .inr (by rwa [Bool.not_eq_true'])
        · exact .inl (.inr ⟨i, by omega, h⟩)

/-! ### The body of a processing command -/

/-- A bypassed unit's command body changes nothing (R124). -/
theorem processChannel_bypassed {u : UnitId} {s : State} (h : bypassed s u = true) (c : Nat)
    (job : Draw → Work → Work) : processChannel u c job s = s := by
  simp [processChannel, h]

/-- A processing command's body writes the channels and `NF`, and no other field. -/
theorem processChannel_others (u : UnitId) (c : Nat) (job : Draw → Work → Work) (s : State) :
    processChannel u c job s
      = { s with chans := (processChannel u c job s).chans, nf := (processChannel u c job s).nf } := by
  unfold processChannel
  split <;> rfl

/-- It writes no other channel than its own (R85). -/
theorem processChannel_other_chan (u : UnitId) (c e : Nat) (job : Draw → Work → Work) (s : State) (h : e ≠ c) :
    (processChannel u c job s).chan e = s.chan e := by
  unfold processChannel
  split
  · rfl
  · exact chan_setChan_other s c e _ h

/-- The channel and the flag it leaves when the unit runs. -/
theorem processChannel_runs {u : UnitId} {s : State} (h : bypassed s u = false) {c : Nat} (hc : c < 16)
    (job : Draw → Work → Work) :
    (processChannel u c job s).chan c = (job s.drawKey ⟨s.chan c, s.nf⟩).ch ∧
    (processChannel u c job s).nf = (job s.drawKey ⟨s.chan c, s.nf⟩).nf := by
  unfold processChannel
  rw [if_neg (by simp [h])]
  exact ⟨chan_setChan_same s c _ hc, rfl⟩

end Sys2Proof.Machine
end

