-- ==== Sys2Proof/Laws/Units.lean ====
section
/-! SUPPORT. What each processing unit's sample does to the channel it works on, and what a processing command that runs
leaves (spec R83 to R85, R121). -/

namespace Sys2Proof.Machine

/-! ### The sample functions leave the sample memories alone (R121) -/

theorem lwsSample_keeps (P : Params) : KeepsBuffers (lwsSample P) := fun _ _ _ => ⟨rfl, rfl⟩

theorem dwsSample_keeps (P : Params) (k : DwsConsts) : KeepsBuffers (dwsSample P k) := fun _ _ _ => ⟨rfl, rfl⟩

theorem oacSample_keeps (P : Params) (k : OacConsts) (v : OacVariant) : KeepsBuffers (oacSample P k v) :=
  fun _ _ _ => ⟨rfl, rfl⟩

theorem triSample_keeps (P : Params) (k : TriConsts) : KeepsBuffers (triSample P k) := fun _ _ _ => ⟨rfl, rfl⟩

/-- A run of sections changes the section state of the channel and no other part of it (R203). -/
theorem sections_others (bq : Vector Biquad 16) (d : Draw) (js : List Nat) : ∀ r : Sampled,
    (js.foldl (sectionStep bq d) r).ch = { r.ch with bs := (js.foldl (sectionStep bq d) r).ch.bs } := by
  induction js with
  | nil => intro r; rfl
  | cons j js ih =>
    intro r
    rw [List.foldl_cons, ih]
    simp [sectionStep]

theorem bqcSample_keeps (bq : Vector Biquad 16) (f l : Nat) : KeepsBuffers (bqcSample bq f l) := by
  intro d ch x
  have h := sections_others bq d (sectionRange f l) ⟨ch, x, true⟩
  rw [← bqcSample] at h
  rw [h]
  exact ⟨rfl, rfl⟩

/-! ### A processing command that runs -/

theorem ReadyFor.check {s : State} {c : Nat} (h : ReadyFor s c) : blockCheck s c = none :=
  (blockCheck_none s c).mpr ⟨h.prepared, h.channel, h.length⟩

/-- The frame of the body of a processing command (R85). -/
theorem processChannel_frame (u : UnitId) (c : Nat) (job : Draw → Work → Work) (s : State) :
    ProcessFrame s (advance (processChannel u c job s)) c where
  others := by
    have h := processChannel_others u c job s
    generalize processChannel u c job s = t at h ⊢
    rw [h]; rfl
  channels := fun e he => processChannel_other_chan u c e job s he

/-- The state a `*.RUN` command of a running unit leaves: its frame, the channel and the flag of its loop. -/
theorem runUnit_runs {s : State} {c : Nat} {u : UnitId} (h : RunsOn s c u) (b : BufSel)
    (f : Draw → Channel → Num32 → Sampled) :
    ProcessFrame s (advance (runUnit u c b f s)) c ∧
    (advance (runUnit u c b f s)).chan c = (runBlock b f s.drawKey (lenOf s b) ⟨s.chan c, s.nf⟩).ch ∧
    (advance (runUnit u c b f s)).nf = (runBlock b f s.drawKey (lenOf s b) ⟨s.chan c, s.nf⟩).nf :=
  ⟨processChannel_frame u c _ s, processChannel_runs h.enabled h.field _⟩

/-- The block a `*.RUN` command of a running unit leaves: in each cell the output of its turn. -/
theorem runUnit_block {s : State} {c : Nat} {u : UnitId} (h : RunsOn s c u) (b : BufSel)
    {f : Draw → Channel → Num32 → Sampled} (hf : KeepsBuffers f) :
    BlockHolds s (advance (runUnit u c b f s)) c b (lenOf s b)
      (fun i => (turn b f s.drawKey ⟨s.chan c, s.nf⟩ i).y) := by
  obtain ⟨-, hc, -⟩ := runUnit_runs h b f
  refine ⟨fun i hi => ?_, fun i hi => ?_, ?_⟩
  · rw [hc]; exact runBlock_behind hf b _ _ _ i hi
  · rw [hc]; exact (runBlock_ahead hf b _ _ _).1 i hi
  · rw [hc]; exact (runBlock_ahead hf b _ _ _).2 _ (by cases b <;> simp [otherBuf])

/-- `NF` after a `*.RUN` command of a running unit (R218). -/
theorem runUnit_nf {s : State} {c : Nat} {u : UnitId} (h : RunsOn s c u) (b : BufSel)
    {f : Draw → Channel → Num32 → Sampled} (hf : KeepsBuffers f) :
    (advance (runUnit u c b f s)).nf = true ↔ s.nf = true ∨ ∃ i, i < lenOf s b ∧
      (finite (turn b f s.drawKey ⟨s.chan c, s.nf⟩ i).y &&
        (turn b f s.drawKey ⟨s.chan c, s.nf⟩ i).stateFinite) = false := by
  rw [(runUnit_runs h b f).2.2]
  exact runBlock_nf hf b _ _ _

end Sys2Proof.Machine
end

