-- ==== Sys2Proof/Laws/Exec.lean ====
section
/-! SUPPORT. Every command in one form: its checks as the table of R213 lists them, the words it needs, and its body
(spec R110, R116, R213). -/

namespace Sys2Proof.Machine

/-- What a command does to the state when its checks pass and its words are there. -/
def bodyOf (P : Params) (s : State) : Instr → State → State
  | .nop => id
  | .prepare => prepareBody P
  | .reset m => resetUnits m
  | .wreg a => wregBody P a
  | .rreg a => rregBody P a
  | .ldblk c b => ldblkBody c b
  | .stblk c b => fun s => pushDout (storedWords c b s) s
  | .lwsRun c b => runUnit .lws c b (lwsSample P)
  | .dwsRun c => runUnit .dws c .hi (dwsSample P s.dk)
  | .oacRun c b v => runUnit .oac c b (oacSample P s.ok v)
  | .triRun c => runUnit .tri c .hi (triSample P s.tk)
  | .ovsUp c => upBlock P c
  | .ovsDown c => downBlock P c
  | .bqcRun c b f l => runUnit .bqc c b (bqcSample s.bq f l)

/-! ### The checks, as code and as the table of R213 -/

theorem blockChecks_firstFailing (s : State) (c : Nat) : firstFailing (blockChecks s c) = blockCheck s c := by
  simp [blockChecks, firstFailing, blockCheck, BitVec.lt_def]

theorem sectionChecks_firstFailing (P : Params) (s : State) (c f l : Nat) :
    firstFailing (blockChecks s c ++ [(decide (l < f ∨ P.nsec ≤ l), .badSection)]) = sectionCheck P s c f l := by
  unfold sectionCheck
  rw [← blockChecks_firstFailing]
  simp only [blockChecks, List.cons_append, List.nil_append, firstFailing]
  cases s.prepared with
  | false => simp
  | true =>
    by_cases h1 : s.actNch.toNat ≤ c
    · simp [h1]
    · by_cases h2 : s.actMaxblk.toNat < s.blklen.toNat
      · simp [h1, h2]
      · by_cases h3 : f ≤ l ∧ l < P.nsec
        · have : ¬ (l < f ∨ P.nsec ≤ l) := by omega
          simp [h1, h2, h3, this]
        · have : l < f ∨ P.nsec ≤ l := by omega
          simp [h1, h2, h3, this]

theorem configChecks_firstFailing (P : Params) (s : State) :
    firstFailing (checksOf P s .prepare) = configCheck P s := by
  cases h : validConfig P s <;> simp [checksOf, firstFailing, configCheck, h]

theorem preparedChecks_firstFailing (P : Params) (s : State) (m : BitVec 6) :
    firstFailing (checksOf P s (.reset m)) = preparedCheck s := by
  cases h : s.prepared <;> simp [checksOf, firstFailing, preparedCheck, h]

theorem writeChecks_firstFailing (P : Params) (s : State) (a : BitVec 16) :
    firstFailing (checksOf P s (.wreg a)) = writeCheck P a := by
  cases h : regAt P a with
  | none => simp [checksOf, firstFailing, writeCheck, h]
  | some r => by_cases hk : r.kind = .rw <;> simp [checksOf, firstFailing, writeCheck, isWritable, h, hk]

theorem readChecks_firstFailing (P : Params) (s : State) (a : BitVec 16) :
    firstFailing (checksOf P s (.rreg a)) = readCheck P s a := by
  cases h : regAt P a with
  | none => simp [checksOf, firstFailing, readCheck, h]
  | some r =>
    by_cases hk : r.kind = .window <;> simp [checksOf, firstFailing, readCheck, isWindow, h, hk]

/-- Every command but `RREG`: the table's checks, the words needed, the body. -/
theorem exec_command (i : Instr) (s : State) (h : ∀ a, i ≠ .rreg a) :
    exec i s = command (firstFailing (checksOf Config.params s i)) (needOf s i) (bodyOf Config.params s i) s := by
  cases i with
  | nop => rfl
  | prepare => rw [configChecks_firstFailing]; rfl
  | reset m => rw [preparedChecks_firstFailing]; rfl
  | wreg a => rw [writeChecks_firstFailing]; rfl
  | rreg a => exact absurd rfl (h a)
  | ldblk c b => rw [checksOf, blockChecks_firstFailing]; rfl
  | stblk c b => rw [checksOf, blockChecks_firstFailing]; rfl
  | lwsRun c b => rw [checksOf, blockChecks_firstFailing]; rfl
  | dwsRun c => rw [checksOf, blockChecks_firstFailing]; rfl
  | oacRun c b v => rw [checksOf, blockChecks_firstFailing]; rfl
  | triRun c => rw [checksOf, blockChecks_firstFailing]; rfl
  | ovsUp c => rw [checksOf, blockChecks_firstFailing]; rfl
  | ovsDown c => rw [checksOf, blockChecks_firstFailing]; rfl
  | bqcRun c b f l => rw [checksOf, sectionChecks_firstFailing]; rfl

/-- `RREG`, which a faulted block still executes when its checks pass. -/
theorem exec_rreg (a : BitVec 16) (s : State) :
    exec (.rreg a) s
      = readCommand (firstFailing (checksOf Config.params s (.rreg a))) (rregBody Config.params a) s := by
  rw [readChecks_firstFailing]; rfl

/-- Everything a command can do when it answers a next state: it is discarded, it records a fault, or its body runs. -/
theorem exec_next {i : Instr} {s t : State} (h : exec i s = .next t) :
    (s.faulted = true ∧ t = advance s) ∨
    (s.faulted = false ∧ ∃ code, firstFailing (checksOf Config.params s i) = some code ∧
      t = advance (raiseFault code s)) ∨
    (firstFailing (checksOf Config.params s i) = none ∧ needOf s i ≤ s.din.length ∧
      (s.faulted = false ∨ ∃ a, i = .rreg a) ∧ t = advance (bodyOf Config.params s i s)) := by
  by_cases hr : ∃ a, i = .rreg a
  · obtain ⟨a, rfl⟩ := hr
    rw [exec_rreg] at h
    rcases readCommand_next h with ⟨hf, -, ht⟩ | ⟨hf, hc⟩ | ⟨hc, ht⟩
    · exact .inl ⟨hf, ht⟩
    · exact .inr (.inl ⟨hf, hc⟩)
    · exact .inr (.inr ⟨hc, Nat.zero_le _, .inr ⟨a, rfl⟩, ht⟩)
  · rw [exec_command i s (fun a ha => hr ⟨a, ha⟩)] at h
    rcases command_next h with ⟨hf, ht⟩ | ⟨hf, hc⟩ | ⟨hf, hc, hn, ht⟩
    · exact .inl ⟨hf, ht⟩
    · exact .inr (.inl ⟨hf, hc⟩)
    · exact .inr (.inr ⟨hc, hn, .inl hf, ht⟩)

/-- Everything a step can do when it answers a next state. -/
theorem step_next {s t : State} (h : step s = .next t) :
    ∃ w rest, s.cmds = w :: rest ∧
      ((∃ i, decode w = .ok i ∧ exec i { s with cmds := rest } = .next t) ∨
       (∃ e, decode w = .error e ∧ illegalCommand { s with cmds := rest } = .next t)) := by
  unfold step at h
  split at h
  · cases h
  · rename_i w u hu
    obtain ⟨rest, hc, rfl⟩ := takeCommand_some hu
    refine ⟨w, rest, hc, ?_⟩
    split at h
    · rename_i i hi; exact .inl ⟨i, hi, h⟩
    · rename_i e he; exact .inr ⟨e, he, h⟩

/-! ### Runs of steps -/

/-- A run of one step more: it goes on where the step answers a next state. -/
theorem run_of_next (M : Host.Core) {k : Nat} {s t : M.State} (h : M.step s = .next t) : M.run (k + 1) s = M.run k t := by
  simp [Host.Core.run, h]

/-- A run that answers a next state took a first step that did. -/
theorem run_succ_next (M : Host.Core) {k : Nat} {s t : M.State} (h : M.run (k + 1) s = .next t) :
    ∃ u, M.step s = .next u ∧ M.run k u = .next t := by
  cases hs : M.step s with
  | next u => exact ⟨u, rfl, by simpa [Host.Core.run, hs] using h⟩
  | fault r => simp [Host.Core.run, hs] at h
  | refused r => simp [Host.Core.run, hs] at h

end Sys2Proof.Machine
end

