-- ==== Sys2Proof/Laws/PerInstr.lean ====
section
/-! SUPPORT. The family of laws stated for every instruction: the top byte of its command word is the opcode the table
gives it (spec R92). -/

namespace Sys2Proof.Laws

/-- The command word as a number, for fields that fit their bits (R91). -/
theorem cmdWord_toNat {op c b v imm : Nat} (hop : op < 256) (hc : c < 16) (hb : b < 2) (hv : v < 8)
    (hi : imm < 2 ^ 16) :
    (cmdWord op c b v imm).toNat = op * 2 ^ 24 + c * 2 ^ 20 + b * 2 ^ 19 + v * 2 ^ 16 + imm := by
  rw [cmdWord, BitVec.toNat_ofNat, Nat.mod_eq_of_lt (by omega)]

/-- Its top byte is the opcode. -/
theorem cmdWord_opcode {op c b v imm : Nat} (hop : op < 256) (hc : c < 16) (hb : b < 2) (hv : v < 8)
    (hi : imm < 2 ^ 16) : (cmdWord op c b v imm).toNat / 2 ^ 24 = op := by
  rw [cmdWord_toNat hop hc hb hv hi]; omega

theorem bufSel_bit_lt (b : BufSel) : b.bit < 2 := by cases b <;> decide

theorem variant_bit_lt (v : OacVariant) : v.bit < 8 := by cases v <;> decide

namespace Opcode

/-- The `op` column of R92. -/
def number : Instr → Nat
  | .nop => 0x00
  | .prepare => 0x01
  | .reset _ => 0x02
  | .wreg _ => 0x03
  | .rreg _ => 0x04
  | .ldblk _ _ => 0x05
  | .stblk _ _ => 0x06
  | .lwsRun _ _ => 0x10
  | .dwsRun _ => 0x11
  | .oacRun _ _ _ => 0x12
  | .triRun _ => 0x13
  | .ovsUp _ => 0x14
  | .ovsDown _ => 0x15
  | .bqcRun _ _ _ _ => 0x16

/-- The top byte of the command word of a well-formed instruction is its opcode. -/
def Statement (i : Instr) : Prop := i.wf = true → (encode i).toNat / 2 ^ 24 = number i

theorem nop : Statement .nop := fun _ => by decide

theorem prepare : Statement .prepare := fun _ => by decide

theorem reset (m : BitVec 6) : Statement (.reset m) := fun _ =>
  cmdWord_opcode (by omega) (by omega) (by omega) (by omega) (by omega)

theorem wreg (a : BitVec 16) : Statement (.wreg a) := fun _ =>
  cmdWord_opcode (by omega) (by omega) (by omega) (by omega) (by omega)

theorem rreg (a : BitVec 16) : Statement (.rreg a) := fun _ =>
  cmdWord_opcode (by omega) (by omega) (by omega) (by omega) (by omega)

theorem ldblk (c : Nat) (b : BufSel) : Statement (.ldblk c b) := fun h =>
  cmdWord_opcode (by omega) (of_decide_eq_true h) (bufSel_bit_lt b) (by omega) (by omega)

theorem stblk (c : Nat) (b : BufSel) : Statement (.stblk c b) := fun h =>
  cmdWord_opcode (by omega) (of_decide_eq_true h) (bufSel_bit_lt b) (by omega) (by omega)

theorem lwsRun (c : Nat) (b : BufSel) : Statement (.lwsRun c b) := fun h =>
  cmdWord_opcode (by omega) (of_decide_eq_true h) (bufSel_bit_lt b) (by omega) (by omega)

theorem dwsRun (c : Nat) : Statement (.dwsRun c) := fun h =>
  cmdWord_opcode (by omega) (of_decide_eq_true h) (by omega) (by omega) (by omega)

theorem oacRun (c : Nat) (b : BufSel) (v : OacVariant) : Statement (.oacRun c b v) := fun h =>
  cmdWord_opcode (by omega) (of_decide_eq_true h) (bufSel_bit_lt b) (variant_bit_lt v) (by omega)

theorem triRun (c : Nat) : Statement (.triRun c) := fun h =>
  cmdWord_opcode (by omega) (of_decide_eq_true h) (by omega) (by omega) (by omega)

theorem ovsUp (c : Nat) : Statement (.ovsUp c) := fun h =>
  cmdWord_opcode (by omega) (of_decide_eq_true h) (by omega) (by omega) (by omega)

theorem ovsDown (c : Nat) : Statement (.ovsDown c) := fun h =>
  cmdWord_opcode (by omega) (of_decide_eq_true h) (by omega) (by omega) (by omega)

theorem bqcRun (c : Nat) (b : BufSel) (f l : Nat) : Statement (.bqcRun c b f l) := fun h => by
  simp only [Instr.wf, Bool.and_eq_true, decide_eq_true_eq] at h
  exact cmdWord_opcode (by omega) h.1.1 (bufSel_bit_lt b) (by omega) (by omega)

end Opcode

end Sys2Proof.Laws
end

