-- ==== Sys2Proof/Laws/Registers.lean ====
section
/-! SUPPORT. The register map: what an address can show (spec R21). -/

namespace Sys2Proof.Machine

/-- A key found by `lookup` stands in the list with its value. -/
theorem mem_of_lookup {α : Type} {n : Nat} {x : α} : ∀ {l : List (Nat × α)}, l.lookup n = some x → (n, x) ∈ l := by
  intro l
  induction l with
  | nil => intro h; cases h
  | cons e l ih =>
    obtain ⟨k, y⟩ := e
    intro h
    rw [List.lookup_cons] at h
    by_cases hk : n = k
    · subst hk; simp at h; simp [h]
    · have : (n == k) = false := by simpa using hk
      rw [this] at h
      exact List.mem_cons_of_mem _ (ih h)

/-- The registers of the rows with one address are none of the biquad tables. -/
theorem fixedRegs_not_bq : ∀ e ∈ fixedRegs, ∀ j f, e.2 ≠ .bq j f := by
  intro e he j f h
  have : fixedRegs.all (fun e => match e.2 with | .bq _ _ => false | _ => true) = true := by decide
  have := List.all_eq_true.mp this e he
  rw [h] at this
  cases this

/-- A mapped coefficient belongs to a section the instance has (R47). -/
theorem regAt_bq {P : Params} {a : BitVec 16} {j : Fin 16} {f : BqField} (h : regAt P a = some (.bq j f)) :
    j.val < P.nsec ∧ a.toNat / 8 = 0xE0 + j.val := by
  unfold regAt at h
  split at h
  · rename_i r hr
    cases h
    exact absurd rfl (fixedRegs_not_bq _ (mem_of_lookup hr) j f)
  · have hn : P.nsec ≤ 16 := by unfold Params.nsec; omega
    unfold rangedReg at h
    by_cases h0 : a.toNat < 0x0500
    · rw [if_pos h0] at h; cases h
    rw [if_neg h0] at h
    by_cases h1 : a.toNat < 0x0600
    · rw [if_pos h1, hbtapAt] at h; split at h <;> cases h
    rw [if_neg h1] at h
    by_cases h2 : a.toNat < 0x0608
    · rw [if_pos h2] at h; cases h
    rw [if_neg h2] at h
    by_cases h3 : a.toNat < 0x0640
    · rw [if_pos h3] at h; cases h
    rw [if_neg h3] at h
    by_cases h4 : a.toNat < 0x0680
    · rw [if_pos h4, historyAt] at h; split at h <;> cases h
    rw [if_neg h4] at h
    by_cases h5 : a.toNat < 0x06C0
    · rw [if_pos h5, historyAt] at h; split at h <;> cases h
    rw [if_neg h5] at h
    by_cases h6 : a.toNat < 0x0700
    · rw [if_pos h6, historyAt] at h; split at h <;> cases h
    rw [if_neg h6] at h
    by_cases h7 : 0x0780 ≤ a.toNat
    · rw [if_neg (by omega)] at h
      by_cases h8 : a.toNat < 0x07C0
      · rw [if_pos h8, bsAt] at h
        split at h
        · simp at h
        · cases h
      · rw [if_neg h8] at h; cases h
    rw [if_pos (by omega)] at h
    simp only [bqAt] at h
    split at h
    · simp only [Option.map_eq_some_iff, Reg.bq.injEq] at h
      obtain ⟨f', -, hj, -⟩ := h
      have := congrArg Fin.val hj
      simp only [Fin.val_ofNat] at this
      omega
    · cases h

end Sys2Proof.Machine
end

