-- ==== Sys2Proof/Laws/Rounding.lean ====
section
/-! SUPPORT. What rounding means in real numbers (spec R8): a magnitude on the grid of spacing 2^shift around the exact
value is the number nearest to it, ties to even, below the overflow threshold. -/

namespace Sys2Proof.Machine

/-- One, in units of 2^-149. -/
noncomputable def realUnit : ℝ := 2 ^ 149

theorem realUnit_pos : 0 < realUnit := by unfold realUnit; positivity


/-- The value of a word, from its sign and its bits 30:0. -/
theorem numValue_real (a : Num32) : (numValue a : ℝ) = (if signOf a then -1 else 1) * (magUnits (magOf a) : ℝ) / realUnit := by
  have h2 : (((2:ℚ) ^ 149 : ℚ) : ℝ) = realUnit := by unfold realUnit; rw [Rat.cast_pow, Rat.cast_ofNat]
  unfold numValue signedUnits; rw [units_eq, Rat.cast_div, h2]
  generalize magUnits (magOf a) = z
  cases signOf a
  · rw [if_neg (by decide), if_neg (by decide), one_mul]; norm_cast
  · rw [if_pos rfl, if_pos rfl]; push_cast; ring


/-- The last bit of a word with an even magnitude is 0. -/
theorem pack_bit0 (s : Bool) {m : Nat} (h : m < 2^31) (he : m % 2 = 0) : (pack s m).getLsbD 0 = false := by
  have : (pack s m).getLsbD 0 = decide ((pack s m).toNat % 2 = 1) := by
    simp [BitVec.getLsbD, Nat.testBit_zero]
  rw [this, pack_toNat _ h, decide_eq_false_iff_not]
  cases s
  · rw [if_neg (by decide)]; omega
  · rw [if_pos rfl]; omega

/-- A magnitude of at least 2^23 spacings is a whole number of them. -/
theorem grid_of_ge {shift m : ℕ} (hB : (2:ℝ)^(23+shift) ≤ magUnits m) : ∃ j : ℕ, magUnits m = j * 2^shift := by
  have hb : magUnits (shift * 2 ^ 23 + 2 ^ 23) = 2 ^ (23 + shift) := by
    rw [magUnits_grid shift (2 ^ 23) (by decide) (.inr (Nat.le_refl _)), Nat.pow_add]
  have hle : shift * 2 ^ 23 + 2 ^ 23 ≤ m := by
    by_contra hc
    have h3 := magUnits_lt (Nat.lt_of_not_le hc)
    rw [hb] at h3
    have h4 : (magUnits m : ℝ) < ((2^(23+shift) : ℕ):ℝ) := Nat.cast_lt.2 h3
    rw [Nat.cast_pow, Nat.cast_ofNat] at h4
    linarith
  refine ⟨(2 ^ 23 + m % 2 ^ 23) * 2 ^ (m / 2 ^ 23 - 1 - shift), ?_⟩
  unfold magUnits
  rw [if_neg (by omega), Nat.mul_assoc, ← Nat.pow_add]
  have e : m / 2 ^ 23 - 1 - shift + shift = m / 2 ^ 23 - 1 := by omega
  rw [e]

/-- A whole number that is not 0 is at least 1 in size. -/
theorem one_le_absR {j : ℤ} (h : j ≠ 0) : (1:ℝ) ≤ |(j:ℝ)| := by
  rw [← Int.cast_abs]; exact_mod_cast Int.one_le_abs h

theorem ne_of_23 {k : ℕ} (h : k ≠ 2^23) : ((2:ℤ)^23 - k) ≠ 0 := by omega

/-- The word of k spacings of 2^shift units is nearest to X units when X is within half a spacing of it, and X is not
below the range of that spacing. -/
theorem nearest_grid (X : ℝ) (s : Bool) (shift k : ℕ) (hX : 0 ≤ X) (hk : k ≤ 2^24) (hsk : shift = 0 ∨ 2^23 ≤ k)
   (hlo : shift = 0 ∨ (2:ℝ)^(23+shift) ≤ X) (h1 : 2 * X ≤ (2*k+1) * 2^shift) (h2 : 2 * (k * 2^shift) ≤ 2 * X + 2^shift)
   (hev : 2 * X = (2*k+1) * 2^shift ∨ 2 * ((k:ℝ) * 2^shift) = 2 * X + 2^shift →
       k % 2 = 0) (hfin : shift * 2^23 + k < 0x7F800000) :
   NearestEven ((if s then -1 else 1) * X / realUnit) (pack s (shift * 2^23 + k)) := by
  have hm31 : shift * 2^23 + k < 2^31 := by omega
  have hU := realUnit_pos
  have hy : (numValue (pack s (shift * 2^23 + k)) : ℝ) = (if s then -1 else 1) * ((k:ℝ) * 2^shift) / realUnit := by
    rw [numValue_real, signOf_pack _ hm31, magOf_pack _ hm31, magUnits_grid _ _ hk hsk]; push_cast; rfl
  -- distance in units
  have hdist : ∀ (t : ℝ), |(if s then -1 else 1) * t / realUnit - (if s then -1 else 1) * X / realUnit| =
      |t - X| / realUnit := by
    intro t
    have : (if s then (-1:ℝ) else 1) * t / realUnit - (if s then -1 else 1) * X / realUnit =
        (if s then -1 else 1) * ((t - X)/realUnit) := by ring
    rw [this, abs_mul, abs_div, abs_of_pos hU]
    cases s <;> simp
  have hzval : ∀ z, finite z = true → ∃ t : ℝ, (numValue z : ℝ) = (if s then -1 else 1) * t / realUnit ∧
      ∃ m : ℕ, m < 0x7F800000 ∧ (t = magUnits m ∨ t = -(magUnits m : ℝ)) := by
    intro z hz
    refine ⟨(if s then -1 else 1) * (if signOf z then -1 else 1) * (magUnits (magOf z) : ℝ), ?_, magOf z,
        (finite_iff z).1 hz, ?_⟩
    · rw [numValue_real]; cases s <;> simp
    · cases s <;> cases signOf z <;> simp
  have hp : (0:ℝ) < 2^shift := by positivity
  have hyd : |(k:ℝ) * 2^shift - X| ≤ 2^shift / 2 := by
    rw [abs_le]; constructor <;> nlinarith
  -- main
  have main : ∀ t : ℝ, (∃ m : ℕ, m < 0x7F800000 ∧ (t = magUnits m ∨ t = -(magUnits m : ℝ))) →
      |(k:ℝ)*2^shift - X| ≤ |t - X| ∧ (|t - X| = |(k:ℝ)*2^shift - X| → t = (k:ℝ)*2^shift ∨ k % 2 = 0) := by
    rintro t ⟨m, hm, ht⟩
    -- case: t is grid integer j * 2^shift
    have grid : ∀ j : ℤ, t = j * 2^shift → |(k:ℝ)*2^shift - X| ≤ |t - X| ∧ (|t - X| = |(k:ℝ)*2^shift - X| →
        t = (k:ℝ)*2^shift ∨ k % 2 = 0) := by
      intro j hj
      by_cases hjk : j = k
      · have : t = (k:ℝ)*2^shift := by rw [hj, hjk]; norm_cast
        rw [this]; exact ⟨le_refl _, fun _ => .inl rfl⟩
      · have hge : (2:ℝ)^shift ≤ |t - k*2^shift| := by
          have : t - k * 2^shift = ((j - k : ℤ) : ℝ) * 2^shift := by rw [hj]; push_cast; ring
          rw [this, abs_mul, abs_of_pos hp]
          have : (1:ℝ) ≤ |((j - k : ℤ):ℝ)| := by
            rw [← Int.cast_abs]; exact_mod_cast Int.one_le_abs (sub_ne_zero.2 hjk)
          nlinarith
        have htri : |t - k*2^shift| ≤ |t - X| + |(k:ℝ)*2^shift - X| := by
          have := abs_sub_le t X (k*2^shift); rwa [abs_sub_comm X] at this
        refine ⟨by linarith, fun he => .inr ?_⟩
        have he2 : |(k:ℝ)*2^shift - X| = 2^shift/2 := by linarith
        apply hev
        rcases abs_cases ((k:ℝ)*2^shift - X) with ⟨h, _⟩ | ⟨h, _⟩
        · right; rw [h] at he2; linarith
        · left; rw [h] at he2; nlinarith
    rcases hlo with hz | hlo
    · subst hz
      rcases ht with ht | ht
      · exact grid (magUnits m) (by rw [ht]; simp)
      · exact grid (-(magUnits m)) (by rw [ht]; simp)
    · by_cases hB : (2:ℝ)^(23+shift) ≤ t
      · rcases ht with ht | ht
        · -- multiple of 2^shift
          have := grid_of_ge (shift := shift) (m := m) (by rw [← ht]; exact hB)
          obtain ⟨j, hj⟩ := this
          exact grid j (by rw [ht, hj]; push_cast; rfl)
        · exfalso
          have : (0:ℝ) ≤ magUnits m := by positivity
          have : (0:ℝ) < 2^(23+shift) := by positivity
          linarith
      · -- t < B ≤ X
        have hBg : |(k:ℝ)*2^shift - X| ≤ |(2:ℝ)^(23+shift) - X| := by
          by_cases hk23 : k = 2^23
          · have h5 : (k:ℝ) = 2^23 := by rw [hk23, Nat.cast_pow, Nat.cast_ofNat]
            rw [h5, pow_add]
          · -- B is grid: use same argument
            have hge : (2:ℝ)^shift ≤ |(2:ℝ)^(23+shift) - k*2^shift| := by
              have : (2:ℝ)^(23+shift) - k * 2^shift = ((2^23 - k : ℤ) : ℝ) * 2^shift := by
                rw [pow_add, Int.cast_sub, Int.cast_pow, Int.cast_ofNat, Int.cast_natCast]; ring
              rw [this, abs_mul, abs_of_pos hp]
              have hne := ne_of_23 hk23
              have := one_le_absR hne
              nlinarith
            have htri : |(2:ℝ)^(23+shift) - k*2^shift| ≤ |(2:ℝ)^(23+shift) - X| + |(k:ℝ)*2^shift - X| := by
              have := abs_sub_le ((2:ℝ)^(23+shift)) X (k*2^shift); rwa [abs_sub_comm X] at this
            linarith
        have h3 : |(2:ℝ)^(23+shift) - X| = X - 2^(23+shift) := by rw [abs_of_nonpos (by linarith)]; ring
        have h4 : |t - X| = X - t := by rw [abs_of_nonpos (by linarith)]; ring
        refine ⟨by rw [h4]; linarith, fun he => ?_⟩
        exfalso; rw [h4] at he; linarith
  refine ⟨?_, ?_, ?_, ?_⟩
  · rw [finite_iff, magOf_pack _ hm31]; exact hfin
  · intro z hz
    obtain ⟨t, ht, hm⟩ := hzval z hz
    rw [hy, ht, hdist, hdist]
    exact div_le_div_of_nonneg_right (main t hm).1 hU.le
  · intro z hz he
    obtain ⟨t, ht, hm⟩ := hzval z hz
    rw [hy, ht, hdist, hdist] at he
    have he := (div_left_inj' hU.ne').1 he
    rcases (main t hm).2 he with h | h
    · left
      have : (numValue z : ℝ) = numValue (pack s (shift * 2^23 + k)) := by rw [ht, hy, h]
      exact_mod_cast this
    · right
      exact pack_bit0 s hm31 (by omega)
  · intro hx
    rw [signOf_pack _ hm31]
    have : 0 < X := by
      rcases hX.lt_or_eq with h | h
      · exact h
      · exfalso; apply hx; rw [← h]; simp
    cases s
    · simp; positivity
    · simp; exact div_neg_of_neg_of_pos (by linarith) hU

/-- The overflow threshold of R8, in units of 2^-149. -/
theorem overflow_val : (2:ℝ)^128 - 2^103 = ((2:ℝ)^25 - 1) * 2^252 / realUnit := by unfold realUnit; norm_num

/-- The same with the overflow to infinity: the word `roundMag` builds from such a k is X units, rounded once. -/
theorem roundsTo_grid (X : ℝ) (s : Bool) (shift k : ℕ) (hX : 0 ≤ X) (hk : k ≤ 2^24) (hsk : shift = 0 ∨ 2^23 ≤ k)
   (hlo : shift = 0 ∨ (2:ℝ)^(23+shift) ≤ X) (hhi : X < 2^(24+shift)) (h1 : 2 * X ≤ (2*k+1) * 2^shift) (h2 : 2 * (k * 2^shift) ≤ 2 * X + 2^shift)
   (hev : 2 * X = (2*k+1) * 2^shift ∨ 2 * ((k:ℝ) * 2^shift) = 2 * X + 2^shift → k % 2 = 0) :
   RoundsTo ((if s then -1 else 1) * X / realUnit) (pack s (min (shift * 2^23 + k) 0x7F800000)) := by
  have hU := realUnit_pos
  have habs : |(if s then -1 else 1) * X / realUnit| = X / realUnit := by
    rw [abs_div, abs_of_pos hU, abs_mul, abs_of_nonneg hX]; cases s <;> simp
  have hp : (0:ℝ) < 2^shift := by positivity
  constructor
  · intro hlt
    rw [habs, overflow_val, div_lt_div_iff_of_pos_right hU] at hlt
    have hfin : shift * 2^23 + k < 0x7F800000 := by
      have hs : shift ≤ 253 := by
        rcases hlo with h | h
        · omega
        · by_contra hc
          have : (2:ℝ)^(23+254) ≤ 2^(23+shift) := pow_le_pow_right₀ (by norm_num) (by omega)
          have : (2:ℝ)^(23+254) ≤ X := this.trans h
          rw [show (2:ℝ)^(23+254) = 2^25*2^252 by rw [← pow_add]] at this
          norm_num at this hlt; linarith
      by_cases h253 : shift = 253
      · subst h253
        have : k < 2^24 := by
          by_contra hc
          have hk24 : k = 2^24 := by omega
          rw [hk24] at h2
          push_cast at h2
          norm_num at h2 hlt
          linarith
        omega
      · omega
    rw [min_eq_left (by omega)]
    exact nearest_grid X s shift k hX hk hsk hlo h1 h2 hev hfin
  · intro hge
    rw [habs, overflow_val, div_le_div_iff_of_pos_right hU] at hge
    have hXp : 0 < X := lt_of_lt_of_le (by positivity) hge
    have hinf : 0x7F800000 ≤ shift * 2^23 + k := by
      have hs : 253 ≤ shift := by
        by_contra hc
        have : (2:ℝ)^(24+shift) ≤ 2^(24+252) := pow_le_pow_right₀ (by norm_num) (by omega)
        rw [show (2:ℝ)^(24+252) = 2^24*2^252 by rw [← pow_add]] at this
        norm_num at this hge; linarith
      by_cases h253 : shift = 253
      · subst h253
        have : k = 2^24 := by
          by_contra hc
          have hk1 : k ≤ 2^24 - 1 := by omega
          by_cases hk2 : k = 2^24 - 1
          · -- tie -> even contradiction
            have : 2 * X = (2*k+1) * 2^253 := by
              rw [hk2] at h1 ⊢
              push_cast at *; norm_num at *; linarith
            have := hev (.inl this)
            omega
          · have : (k:ℝ) ≤ 2^24 - 2 := by
              have : k + 2 ≤ 2^24 := by omega
              have : ((k + 2 : ℕ):ℝ) ≤ (2^24:ℕ) := by exact_mod_cast this
              push_cast at this; linarith
            have h3 : (2*(k:ℝ)+1) * 2^253 ≤ (2*(2^24-2)+1) * 2^253 := by
              apply mul_le_mul_of_nonneg_right _ hp.le; linarith
            norm_num at h3 h1 hge; linarith
        omega
      · rcases hsk with h | h <;> omega
    rw [min_eq_right hinf, isInf_iff, magOf_pack _ (by decide), signOf_pack _ (by decide)]
    refine ⟨rfl, ?_⟩
    cases s
    · simp; positivity
    · simp; exact div_neg_of_neg_of_pos (by linarith) hU

/-- `roundMag n d` is n/d units, rounded once. -/
theorem roundsTo_mag (s : Bool) (n : ℕ) {d : ℕ} (hd : 0 < d) :
   RoundsTo ((if s then -1 else 1) * ((n:ℝ)/d) / realUnit) (pack s (roundMag n d)) := by
  obtain ⟨shift, k, hm, hk, hsk, hlo, hhi, h1, h2, hev⟩ := roundMag_spec n hd
  rw [hm]
  have hdr : (0:ℝ) < d := by exact_mod_cast hd
  have h1' : (2:ℝ) * n ≤ (2*k+1) * (d * 2^shift) := by exact_mod_cast h1
  have h2' : (2:ℝ) * (k * (d * 2^shift)) ≤ 2 * n + d * 2^shift := by exact_mod_cast h2
  apply roundsTo_grid _ _ _ _ (by positivity) hk hsk
  · rcases hlo with h | h
    · exact .inl h
    · right; rw [le_div_iff₀ hdr]; exact_mod_cast h
  · rw [div_lt_iff₀ hdr]; exact_mod_cast hhi
  · rw [← mul_div_assoc, div_le_iff₀ hdr]; linarith
  · have : 2 * ((n:ℝ)/d) + 2^shift = (2 * n + d * 2^shift)/d := by field_simp
    rw [this, le_div_iff₀ hdr]; linarith
  · intro h
    apply hev
    rcases h with h | h
    · left
      have : (2:ℝ) * n = (2*k+1) * (d * 2^shift) := by field_simp at h; linarith
      exact_mod_cast this
    · right
      have : (2:ℝ) * (k * (d * 2^shift)) = 2 * n + d * 2^shift := by field_simp at h; linarith
      exact_mod_cast this

end Sys2Proof.Machine
end

