-- ==== Sys2Proof/Laws/Rules.lean ====
section
/-! SUPPORT. What each unit's function computes, said once: its result stands in the relation of its rule
(Sys2Proof/Rules.lean), whatever the draws. -/

namespace Sys2Proof.Machine

/-- The k-th of the draws, to name those of a formula in the order a relation numbers them. -/
def pick (ds : List Draw) (k : Nat) : Draw := ds.getD k []

theorem sameNum_refl (y : Num32) : SameNum y y := .inl rfl

theorem redrawNan_same (d : Draw) (y : Num32) : SameNum (redrawNan d y) y := by
  unfold redrawNan
  split
  · rename_i h; exact .inr ⟨freeNan_isNan d, h⟩
  · exact .inl rfl

/-! ### omega (R141, R142) -/

theorem omegaPoly_horner (P : Params) (d : Draw) (x : Num32) : HornerValue P x (omegaPoly P d x) :=
  ⟨pick [0 :: 4 :: d, 1 :: 4 :: d, 0 :: 3 :: d, 1 :: 3 :: d, 0 :: 2 :: d, 1 :: 2 :: d, 0 :: 1 :: d, 1 :: 1 :: d,
    0 :: 0 :: d, 1 :: 0 :: d], rfl⟩

theorem omega_value (P : Params) (d : Draw) (x : Num32) : OmegaValue P x (omega P d x) := by
  unfold OmegaValue omega
  split
  · exact redrawNan_same _ _
  · exact omegaPoly_horner P _ x

/-! ### DWS (R152, R153) -/

theorem deriveDws_derived (P : Params) (d : Draw) (fs : Num32) : DerivedDws P fs (deriveDws P d fs) :=
  ⟨pick [0 :: d, 0 :: 1 :: d, 1 :: 1 :: d, 2 :: d, 0 :: 3 :: d, 1 :: 3 :: d, 4 :: d, 5 :: d, 6 :: d, 0 :: 7 :: d,
    1 :: 7 :: d, 9 :: d], rfl, rfl, rfl, rfl, redrawNan_same _ _⟩

theorem dwsNext_sample (P : Params) (k : DwsConsts) (d : Draw) (s u : Num32) :
    DiodeSample P k s u (dwsNext P k d s u) :=
  ⟨pick [0 :: d, 1 :: d, 2 :: d, 3 :: d, 5 :: d, 6 :: d, 7 :: d, 8 :: d], _, omega_value P (4 :: d) _, rfl⟩

/-- At rest, zero input gives +0.0 (R154). -/
theorem diodeSample_rest {P : Params} {k : DwsConsts} (ha : finite k.a = true) (hb : finite k.b = true) {u y : Num32}
    (hu : isZero u = true) (h : DiodeSample P k posZero u y) : y = posZero := by
  obtain ⟨e, w, -, rfl⟩ := h
  have hp : isZero (fadd (e 0) (fmul (e 1) k.a posZero) (fmul (e 2) k.b u)) = true := by
    rw [fmul_zero _ ha (by decide), fmul_zero _ hb hu, fadd_zeros _ (isZero_zeroOf _) (isZero_zeroOf _)]
    exact isZero_zeroOf _
  simp [fsigned, flt_posZero, flt_negative, feq_posZero, hp]

/-- The zero state is settled (R155). -/
theorem dwsSettlesFrom_rest {P : Params} {k : DwsConsts} (ha : finite k.a = true) (hb : finite k.b = true) :
    DwsSettlesFrom P k posZero := by
  intro u v hu h0 h
  have hv : ∀ i, v i = posZero := fun i => by
    induction i with
    | zero => exact h0
    | succ i ih => exact diodeSample_rest ha hb (hu i) (ih ▸ h i)
  have hz : numValue posZero = 0 := by simp [numValue, signedUnits_zero (show isZero posZero = true by decide)]
  refine ⟨0, fun i _ => ?_⟩
  rw [hv, hz]
  exact ⟨by decide, by norm_num⟩

/-! ### OAC (R162, R163) -/

theorem deriveOac_derived (P : Params) (d : Draw) : DerivedOac P (deriveOac P d) :=
  ⟨pick [4 :: d, 6 :: d, 11 :: d, 0 :: 12 :: d, 1 :: 12 :: d, 13 :: d, 14 :: d, 15 :: d, 16 :: d, 17 :: d, 18 :: d,
    19 :: d, 0 :: 20 :: d, 1 :: 20 :: d, 0 :: 0 :: d, 1 :: 0 :: d, 1 :: d, 2 :: d, 0 :: 3 :: d, 1 :: 3 :: d, 7 :: d,
    8 :: d, 0 :: 9 :: d, 1 :: 9 :: d, 10 :: d, 21 :: d, 22 :: d, 23 :: d, 24 :: d, 25 :: d, 26 :: d, 27 :: d, 28 :: d,
    29 :: d, 30 :: d, 31 :: d, 0 :: 32 :: d, 1 :: 32 :: d],
    rfl, rfl, rfl, rfl, redrawNan_same _ _, rfl, rfl, rfl, rfl, rfl⟩

theorem oacTanh_sample (P : Params) (k : OacConsts) (d : Draw) (x : Num32) : TanhSample P k x (oacTanh P k d x) :=
  ⟨pick [2 :: d, 3 :: d, 0 :: d], _, redrawNan_same (1 :: d) _, rfl⟩

theorem oacKnee_sample (P : Params) (k : OacConsts) (d : Draw) (x : Num32) : KneeSample P k x (oacKnee P k d x) := by
  refine ⟨pick [0 :: 0 :: d, 1 :: 0 :: d, 2 :: 0 :: d, 3 :: 0 :: d, 4 :: 0 :: d, 0 :: 1 :: d, 1 :: 1 :: d,
    3 :: 1 :: d, 4 :: 1 :: d, 7 :: 1 :: d, 5 :: 1 :: d, 6 :: 1 :: d],
    if flt (fabs x) k.xk then oacCubic k (0 :: d) (fabs x) else oacOmega P k (1 :: d) (fabs x),
    fun h => ?_, fun h => ?_, rfl⟩
  · rw [if_pos h]; rfl
  · rw [if_neg (by simp [h])]; exact ⟨_, omega_value P (2 :: 1 :: d) _, rfl⟩

theorem oacValue_sample (P : Params) (k : OacConsts) (v : OacVariant) (d : Draw) (x : Num32) :
    ClipperSample P k x (oacValue P k v d x) v := by
  cases v
  · exact oacTanh_sample P k d x
  · exact oacKnee_sample P k d x

/-! ### TRI (R173, R174, R176) -/

theorem triCurrent_conducting {P : Params} {e0 : Num32} (h : flt posZero e0 = true) (d : Draw) (rt : Num32) :
    ConductingCurrent P e0 rt (triCurrent P d e0 rt) := by
  unfold triCurrent
  rw [if_pos h]
  exact ⟨pick [0 :: d, 1 :: d, 2 :: d, 3 :: d, 4 :: d, 0 :: 5 :: d, 1 :: 5 :: d, 6 :: d, 7 :: d, 8 :: d, 9 :: d,
    10 :: d, 11 :: d], rfl⟩

theorem triCurrent_cutoff {P : Params} {e0 : Num32} (h : flt posZero e0 = false) (d : Draw) (rt : Num32) :
    triCurrent P d e0 rt = posZero := by
  unfold triCurrent
  rw [if_neg (by simp [h])]

/-- The solver's result is what the guard makes of its branch's current. -/
theorem triSolve_guarded (P : Params) (d : Draw) (e0 dpk rt rpk : Num32) :
    GuardedCurrent P dpk rpk (triCurrent P (0 :: d) e0 rt) (triSolve P d e0 dpk rt rpk) :=
  ⟨pick [1 :: d, 2 :: d, 0 :: 3 :: d, 1 :: 3 :: d], fun h => if_pos h, fun h => if_neg (ne_true_of_eq_false h)⟩

theorem triSolve_junction (P : Params) (d : Draw) (e0 dpk rt rpk : Num32) :
    JunctionCurrent P e0 dpk rt rpk (triSolve P d e0 dpk rt rpk) :=
  ⟨_, fun h => triCurrent_conducting h _ rt, fun h => triCurrent_cutoff h _ rt, triSolve_guarded P d e0 dpk rt rpk⟩

theorem deriveTri_derived (P : Params) (d : Draw) (fs : Num32) : DerivedTri P fs (deriveTri P d fs) :=
  ⟨pick [0 :: d, 1 :: d, 2 :: d, 5 :: d, 6 :: d, 11 :: d, 0 :: 12 :: d, 1 :: 12 :: d, 13 :: d, 17 :: d, 0 :: 18 :: d,
    1 :: 18 :: d, 27 :: d, 28 :: d, 29 :: d, 38 :: d, 0 :: 3 :: d, 1 :: 3 :: d, 4 :: d, 0 :: 7 :: d, 1 :: 7 :: d,
    8 :: d, 0 :: 9 :: d, 1 :: 9 :: d, 10 :: d, 0 :: 14 :: d, 1 :: 14 :: d, 15 :: d, 16 :: d, 0 :: 19 :: d,
    1 :: 19 :: d, 0 :: 20 :: d, 1 :: 20 :: d, 0 :: 21 :: d, 1 :: 21 :: d, 22 :: d, 0 :: 23 :: d, 1 :: 23 :: d,
    24 :: d, 25 :: d, 26 :: d, 31 :: d, 32 :: d, 33 :: d, 34 :: d, 35 :: d, 36 :: d, 37 :: d, 40 :: d, 41 :: d,
    42 :: d],
    rfl, rfl, rfl, rfl, rfl, rfl, rfl, rfl, rfl, rfl, triSolve_junction P (30 :: d) _ _ _ _, rfl, rfl, rfl, rfl,
    triSolve_junction P (39 :: d) _ _ _ _⟩

theorem triNext_sample (P : Params) (k : TriConsts) (d : Draw) (t : TriState) (u : Num32) :
    TriodeSample P k t u (triNext P k d t u).1 (triNext P k d t u).2 :=
  ⟨pick [0 :: d, 1 :: d, 2 :: d, 3 :: d, 4 :: d, 5 :: d, 6 :: d, 7 :: d, 8 :: d, 9 :: d, 11 :: d, 12 :: d, 13 :: d,
    14 :: d, 15 :: d, 16 :: d, 17 :: d, 18 :: d, 19 :: d, 20 :: d, 21 :: d, 22 :: d, 23 :: d, 24 :: d, 25 :: d,
    26 :: d], _, triSolve_junction P (10 :: d) _ _ _ _, rfl, rfl, rfl, rfl⟩

/-! ### OVS (R186) -/

theorem ovsDot_dotIs (d : Draw) (t : HbBranch) (h : Vector Num32 32) : DotIs t h (ovsDot d t h) :=
  ⟨fun n => (List.range n).foldl
      (fun acc k => fadd (0 :: k :: d) acc (fmul (1 :: k :: d) (t.tap.getD k posZero) (h.getD k posZero))) posZero,
    rfl, rfl, fun k _ => ⟨0 :: k :: d, 1 :: k :: d, foldl_range_succ _ _ _⟩⟩

/-! ### BQC (R201) -/

theorem sectionOut_sample (k : Biquad) (t : BiquadState) (d : Draw) (x : Num32) :
    SectionSample k t x (sectionOut k t d x) :=
  ⟨pick [0 :: d, 1 :: d, 2 :: d, 3 :: d, 4 :: d, 5 :: d, 6 :: d, 7 :: d, 8 :: d], rfl⟩

end Sys2Proof.Machine
end

