-- ==== Sys2Proof/Tests/Slice0.lean ====
section
/-! SUPPORT. Our own tests: ill-formed terms, command words written out from the table of R92,
    one step of each command
on the reference instance with the values spec 95_test_vectors.md and the worked examples give, and for every
obligation with hypotheses a state that meets them. -/

namespace Sys2Proof.Tests

open Sys2Proof.Machine

-- One test after another: each is evaluated by the kernel, and many at once would each hold a thread.
set_option Elab.async false

/-! ## Ill-formed terms (R91, R94) -/

theorem test_wf_refuses_channel_16 :
    [Instr.ldblk 16 .lo, .stblk 16 .hi, .lwsRun 16 .lo, .dwsRun 16, .oacRun 16 .lo .knee, .triRun 16, .ovsUp 16,
      .ovsDown 16, .bqcRun 16 .lo 0 0].map Instr.wf = List.replicate 9 false := by decide

theorem test_wf_refuses_first_section_16 : (Instr.bqcRun 0 .lo 16 0).wf = false := by decide

theorem test_wf_refuses_last_section_16 : (Instr.bqcRun 0 .lo 0 16).wf = false := by decide

theorem test_wf_admits_the_largest_fields : (Instr.bqcRun 15 .hi 15 15).wf = true := by decide

/-! ## Command words, field by field: op ++ c ++ b ++ v ++ imm (R91, R92) -/

/-- The instruction a word decodes to. -/
def decoded (w : Word) : Option Instr :=
  match decode w with
  | .ok i => some i
  | .error _ => none

theorem test_decode_nop : decoded (0x00#8 ++ 0x0#4 ++ 0#1 ++ 0#3 ++ 0x0000#16) = some .nop := by decide

theorem test_decode_prepare : decoded (0x01#8 ++ 0x0#4 ++ 0#1 ++ 0#3 ++ 0x0000#16) = some .prepare := by decide

theorem test_decode_reset : decoded (0x02#8 ++ 0x0#4 ++ 0#1 ++ 0#3 ++ 0x002A#16) = some (.reset 0b101010#6) := by
  decide

theorem test_decode_wreg : decoded (0x03#8 ++ 0x0#4 ++ 0#1 ++ 0#3 ++ 0x070B#16) = some (.wreg 0x070B#16) := by decide

theorem test_decode_rreg : decoded (0x04#8 ++ 0x0#4 ++ 0#1 ++ 0#3 ++ 0xFFFF#16) = some (.rreg 0xFFFF#16) := by decide

theorem test_decode_ldblk : decoded (0x05#8 ++ 0xF#4 ++ 1#1 ++ 0#3 ++ 0x0000#16) = some (.ldblk 15 .hi) := by decide

theorem test_decode_stblk : decoded (0x06#8 ++ 0x3#4 ++ 0#1 ++ 0#3 ++ 0x0000#16) = some (.stblk 3 .lo) := by decide

theorem test_decode_lwsRun : decoded (0x10#8 ++ 0x1#4 ++ 1#1 ++ 0#3 ++ 0x0000#16) = some (.lwsRun 1 .hi) := by decide

theorem test_decode_dwsRun : decoded (0x11#8 ++ 0x1#4 ++ 1#1 ++ 0#3 ++ 0x0000#16) = some (.dwsRun 1) := by decide

theorem test_decode_oacRun : decoded (0x12#8 ++ 0x1#4 ++ 0#1 ++ 1#3 ++ 0x0000#16) = some (.oacRun 1 .lo .knee) := by
  decide

theorem test_decode_triRun : decoded (0x13#8 ++ 0x2#4 ++ 1#1 ++ 0#3 ++ 0x0000#16) = some (.triRun 2) := by decide

theorem test_decode_ovsUp : decoded (0x14#8 ++ 0x1#4 ++ 0#1 ++ 0#3 ++ 0x0000#16) = some (.ovsUp 1) := by decide

theorem test_decode_ovsDown : decoded (0x15#8 ++ 0x4#4 ++ 0#1 ++ 0#3 ++ 0x0000#16) = some (.ovsDown 4) := by decide

/-- f is `imm[3:0]` and l is `imm[11:8]` (95 section 2.1, 0x16080703). -/
theorem test_decode_bqcRun :
    decoded (0x16#8 ++ 0x0#4 ++ 1#1 ++ 0#3 ++ (0x0#4 ++ 0x7#4 ++ 0x0#4 ++ 0x3#4)) = some (.bqcRun 0 .hi 3 7) := by
  decide

/-- The illegal words of 95 section 2.1. -/
theorem test_decode_illegal_words :
    [0x00000001#32, 0x01100000#32, 0x02000040#32, 0x03010005#32, 0x04080000#32, 0x05000001#32, 0x07000000#32,
      0x0F000000#32, 0x11000000#32, 0x12020000#32, 0x13000000#32, 0x14080000#32, 0x15000100#32, 0x16000010#32,
      0x17000000#32, 0xFFFFFFFF#32].map decoded = List.replicate 16 none := by decide

theorem test_decode_names_the_rejection :
    decode 0x00000001#32 = .error .badField ∧ decode 0x07000000#32 = .error .unlistedOpcode := ⟨rfl, rfl⟩

theorem test_encode_words :
    [Instr.reset 0x3F#6, .wreg 0x0005#16, .ldblk 1 .hi, .dwsRun 1, .oacRun 0 .hi .knee, .triRun 0, .ovsDown 1,
      .bqcRun 0 .lo 2 2].map encode =
    [0x0200003F#32, 0x03000005#32, 0x05180000#32, 0x11180000#32, 0x12090000#32, 0x13080000#32, 0x15100000#32,
      0x16000202#32] := by decide

theorem test_table_word : decodeTableWord 32 0x16000100 = some (.bqcRun 0 .lo 0 1) := by decide

/-- The offered word is the one the next step runs. -/
theorem test_fetch_word : step (State.reset.withFetchWord 32 0x01000000) = exec .prepare State.reset := rfl

/-! ## Small states of the reference instance -/

/-- The next state of an outcome. -/
def landed (o : Host.Outcome State Fault Refusal) : State :=
  match o with
  | .next t => t
  | .fault _ => State.reset
  | .refused _ => State.reset

/-- A configuration with blocks of up to 512 samples and two channels. -/
def configured (rate : Num32) (factor : BitVec 3) : State :=
  { State.reset with cfgSr := rate, cfgMaxblk := 512, cfgNch := 2, cfgOsf := factor }

/-- Prepared by the reference instance at 48000.0, factor 2, blocks of `n` samples. -/
def prepared48 (n : BitVec 16) : State :=
  { landed (prepareOn referenceParams (configured 0x473B8000#32 2#3)) with blklen := n }

/-- A channel after reset, with samples. -/
def holding (lo hi : List Num32) : Channel :=
  { Channel.reset with bufLo := memSetFrom [] 0 lo, bufHi := memSetFrom [] 0 hi }

/-- The command is not enabled. -/
def waits (o : Host.Outcome State Fault Refusal) : Bool :=
  match o with
  | .next _ => false
  | .fault r => decide (r = .waitingForDin)
  | .refused _ => false

/-- Channel 0 after a command. -/
def left (o : Host.Outcome State Fault Refusal) : Channel := (landed o).chan 0

/-- The samples of a buffer. -/
def samples (m : Memory) : List Num32 := m.map Prod.snd

/-! ## One step of each command -/

/-- R111. -/
theorem test_nop_counts : (landed (exec .nop State.reset)).cc = 1 := by decide

/-- V-SYS-1, V-SYS-2. -/
theorem test_prepare_derives :
    ((prepared48 0).fsProc, (prepared48 0).dk.a, (prepared48 0).dk.l, (prepared48 0).ok.c3, (prepared48 0).ok.ga)
      = (0x47BB8000#32, 0x3F2DBCD7#32, 0xC066B6C6#32, 0xC7817207#32, 0x41B23678#32) := by decide +kernel

/-- P3: factor 3 is rejected with code 3 at the command's own count. -/
theorem test_prepare_rejects_factor_3 :
    (fun t : State => (t.faulted, t.fault, t.prepared)) (landed (prepareOn referenceParams (configured 0x473B8000#32 3#3)))
      = (true, 3#8, false) := by decide +kernel

/-- V-SYS-6, P4: `RESET TRI` clears the triode's cells, and nothing of the diode's. -/
theorem test_reset_tri :
    (fun ch : Channel => (ch.ts, ch.dsV))
      (left (exec (.reset 0x08#6) ({ State.reset with prepared := true }.setChan 0
        { Channel.reset with ts := ⟨1#32, 2#32, 3#32⟩, dsV := 4#32 })))
      = (⟨posZero, posZero, posZero⟩, 4#32) := by decide +kernel

/-- V-SYS-3. -/
theorem test_wreg_keeps_the_low_bits :
    (landed (exec (.wreg 0x0005#16) { State.reset with din := [0x12345678#32] })).blklen = 0x5678#16 :=
        by decide +kernel

/-- V-SYS-3: a moved NaN keeps its pattern. -/
theorem test_wreg_moves_a_nan :
    (landed (wregOn referenceParams 0x0700#16 { State.reset with din :=
        [0x7FC00001#32] })).bq[0].b0 = 0x7FC00001#32 := by
  decide +kernel

/-- V-SYS-4. -/
theorem test_rreg_constants :
    [0x0011#16, 0x0106#16, 0x0100#16, 0x0600#16, 0x0601#16, 0x0501#16, 0x0521#16, 0x0700#16, 0x0208#16].map
        (fun a => (landed (rregOn referenceParams a State.reset)).dout)
      = [[0x3089705F#32], [0x3FC00000#32], [0x3F1130F7#32], [4#32], [2#32], [0x3E900000#32], [0x3F000000#32],
         [0x3F800000#32], [0#32]] := by decide +kernel

/-- R53: a window of a block that is not prepared. -/
theorem test_rreg_window_needs_prepared :
    (landed (rregOn referenceParams 0x0420#16 State.reset)).fault = 2#8 := by decide +kernel

/-- V-SYS-5: `LDBLK` on `BUFHI` takes `BLKLEN * ACT_OSF` words. -/
theorem test_ldblk_takes_the_block :
    (fun t : State => (samples (t.chan 0).bufHi, t.din))
      (landed (exec (.ldblk 0 .hi) { prepared48 1 with din := [7#32, 8#32, 9#32] })) = ([7#32, 8#32], [9#32]) := by
  decide +kernel

/-- R116: with a word missing the command waits. -/
theorem test_ldblk_waits : waits (exec (.ldblk 0 .hi) { prepared48 1 with din := [7#32] }) = true := by decide +kernel

theorem test_stblk_pushes_the_block :
    (landed (exec (.stblk 0 .lo) ((prepared48 2).setChan 0 (holding [7#32, 8#32] [])))).dout = [7#32, 8#32] := by
  decide +kernel

/-- The table of V-LWS: both sides of both boundaries, and the ends of the domain. -/
theorem test_lwsRun_branches :
    samples (left (lwsRunOn referenceParams 0 .lo ((prepared48 8).setChan 0
      (holding [0xBFC00000#32, 0x80000000#32, 0x3F800000#32, 0x3FC00000#32, 0x3FC00001#32, 0xBFC00001#32,
        0xC2AE0000#32, 0x467A0000#32] [])))).bufLo
      = [0x3E3DCCBC#32, 0x3F1130F7#32, 0x3F80005E#32, 0x3FA1E880#32, 0x3FA1EB4A#32, 0x3E3DD34E#32,
         0x00B33687#32, 0x4679D948#32] := by decide +kernel

/-- V-LWS: -infinity gives +0.0 and no flag. -/
theorem test_lwsRun_minus_infinity :
    (fun t : State => (samples (t.chan 0).bufLo, t.nf))
      (landed (lwsRunOn referenceParams 0 .lo ((prepared48 1).setChan 0 (holding [0xFF800000#32] []))))
      = ([posZero], false) := by decide +kernel

/-- V-DWS-1, its first four samples. -/
theorem test_dwsRun_iterates :
    (fun ch : Channel => (samples ch.bufHi, ch.dsV))
      (left (dwsRunOn referenceParams 0 ((prepared48 2).setChan 0
        (holding [] [0x3F800000#32, 0x3F800000#32, 0x3F800000#32, 0xC0000000#32]))))
      = ([0x3E133B7E#32, 0x3E1DD640#32, 0x3E1E78D0#32, 0xBE270C2C#32], 0xBE270C2C#32) := by decide +kernel

/-- V-DWS-3. -/
theorem test_dwsRun_signed_zeros :
    samples (left (dwsRunOn referenceParams 0 ((prepared48 1).setChan 0 (holding [] [0x80000000#32, 0#32])))).bufHi
      = [posZero, posZero] := by decide +kernel

/-- R154, R155: from the largest state the reference instance's argument of `omega` overflows, and R154 gives a NaN there
(log 19). -/
theorem test_dws_top_state_overflows :
    (fun k : DwsConsts => fmul [] (fadd [] (fmul [] k.a 0x7F7FFFFF#32) k.q0) k.ivt)
      (deriveDws referenceParams [] 0x47BB8000#32) = 0x7F800000#32 := by decide +kernel

/-- R201 by hand, with the signs of log 11: every product of a +0.0 is -0.0 or is subtracted as +0.0, so the sum is -0.0,
which R205's sentence does not list (log 20). -/
theorem test_section_zero_input_can_give_minus_zero :
    sectionOut ⟨0xBF800000#32, 0xBF800000#32, 0xBF800000#32, 0x3F800000#32, 0#32⟩ BiquadState.reset [] posZero
      = 0x80000000#32 := by decide

/-- R168 and V-OAC-1: below the knee, at it, above it, clamped. -/
theorem test_oacRun_knee :
    samples (left (oacRunOn referenceParams 0 .lo .knee ((prepared48 6).setChan 0
      (holding [0xBC03126F#32, 0x3C0346A9#32, 0x3C0346AA#32, 0x3F800000#32, 0xC1200000#32, 0x80000000#32] [])))).bufLo
      = [0xBE1C1A8E#32, 0x3E1C409B#32, 0x3E1C4087#32, 0x3FA8C710#32, 0xC0900000#32, 0#32] := by decide +kernel

/-- R168 and V-OAC-1. -/
theorem test_oacRun_tanh :
    samples (left (oacRunOn referenceParams 0 .lo .tanh ((prepared48 4).setChan 0
      (holding [0x3C23D70A#32, 0xBE4CCCCD#32, 0x80000000#32, 0xFF800000#32] [])))).bufLo
      = [0x3E63ED1B#32, 0xC05A210A#32, 0x80000000#32, 0xC0900000#32] := by decide +kernel

/-- V-TRI-2, its first four samples: the words and the state R179 gives after them. -/
theorem test_triRun_small_signal :
    (fun ch : Channel => (samples ch.bufHi, ch.ts))
      (left (triRunOn referenceParams 0 ((prepared48 2).setChan 0
        (holding [] [0#32, 0x3DCCCCCD#32, 0x3DCCCCCD#32, 0xBDCCCCCD#32]))))
      = ([0#32, 0xC0849A5D#32, 0xC083D6FB#32, 0x40827D46#32], ⟨0x38464000#32, 0x39F5D922#32, 0xBB01E4E8#32⟩) := by
  decide +kernel

/-- V-TRI-4: cutoff, and the guard. -/
theorem test_triRun_cutoff_and_guard :
    [[0xC0A00000#32, 0xC0A00000#32], [0x42480000#32, 0x42480000#32]].map (fun u =>
        samples (left (triRunOn referenceParams 0 ((prepared48 1).setChan 0 (holding [] u)))).bufHi)
      = [[0x42312828#32, 0x423114A4#32], [0xC3487B47#32, 0xC3485D24#32]] := by decide +kernel

/-- V-OVS-2, program P1. -/
theorem test_ovsUp_factor_2 :
    samples (left (ovsUpOn referenceParams 0 ((prepared48 4).setChan 0
      (holding [0x3F000000#32, 0xBE800000#32, 0x3F400000#32, 0x3F800000#32] [])))).bufHi
      = [0xBD000000#32, 0#32, 0x3E980000#32, 0x3F000000#32, 0x3DC00000#32, 0xBE800000#32, 0x3E400000#32,
         0x3F400000#32] := by decide +kernel

/-- V-OVS-3, factor 4. -/
theorem test_ovsUp_factor_4 :
    samples (left (ovsUpOn referenceParams 0 ({ prepared48 2 with actOsf := 4#3 }.setChan 0
      (holding [0x3F000000#32, 0xBE800000#32] [])))).bufHi
      = [0x3B000000#32, 0#32, 0xBC900000#32, 0xBD000000#32, 0xBD140000#32, 0#32, 0x3E0D0000#32, 0x3E980000#32] := by
  decide +kernel

/-- V-OVS-2, program P1. -/
theorem test_ovsDown_factor_2 :
    samples (left (ovsDownOn referenceParams 0 ((prepared48 4).setChan 0
      (holding [] [0xBD000000#32, 0#32, 0x3E980000#32, 0x3F000000#32, 0x3DC00000#32, 0xBE800000#32, 0x3E400000#32,
        0x3F400000#32])))).bufLo
      = [0x3A800000#32, 0xBC940000#32, 0x3D930000#32, 0x3EB5C000#32] := by decide +kernel

/-- V-OVS-3, factor 4: the samples, and the last pair in the stage 1 histories. -/
theorem test_ovsDown_factor_4 :
    (fun ch : Channel => (samples ch.bufLo, (ch.ovs[1]).dno[0], (ch.ovs[1]).dne[3]))
      (left (ovsDownOn referenceParams 0 ({ prepared48 2 with actOsf := 4#3 }.setChan 0
        (holding [] [0x3B000000#32, 0#32, 0xBC900000#32, 0xBD000000#32, 0xBD140000#32, 0#32, 0x3E0D0000#32,
          0x3E980000#32]))))
      = ([0x36000000#32, 0x38B20000#32], 0x3E980000#32, 0x3B000000#32) := by decide +kernel

/-- R206: the two sections in series. -/
theorem test_bqcRun_cascade :
    (fun ch : Channel => (samples ch.bufLo, ch.bs[1]))
      (left (bqcRunOn referenceParams 0 .lo 0 1 ({ prepared48 4 with
        bq := ((prepared48 4).bq.set 0 ⟨0x3F000000#32, 0x3F000000#32, 0#32, 0#32, 0#32⟩).set 1
          ⟨0x3F800000#32, 0#32, 0#32, 0xBF000000#32, 0#32⟩ }.setChan 0
        (holding [0x3F800000#32, 0#32, 0#32, 0#32] []))))
      = ([0x3F000000#32, 0x3F400000#32, 0x3EC00000#32, 0x3E400000#32],
         ⟨0#32, 0#32, 0x3E400000#32, 0x3EC00000#32⟩) := by decide +kernel

/-- R204: f above l. -/
theorem test_bqcRun_bad_section :
    (landed (bqcRunOn referenceParams 0 .lo 3 1 (prepared48 4))).fault = 8#8 := by decide +kernel

/-- R195 (i) for the reference taps. -/
theorem test_reference_taps_keep_dc : TapsKeepDc referenceParams := by unfold TapsKeepDc TapsFinite; decide +kernel

/-- R6: the reference domain is -87.0 to 16000.0. -/
theorem test_reference_domain :
    referenceParams.omegaXmin.lower = 0xC2AE0000#32 ∧ referenceParams.omegaXmax.upper = 0x467A0000#32 := by decide +kernel

/-! ## Witnesses: for every obligation with hypotheses, a state and operands that meet them,
    at the ends of their ranges

Statements about `exec` run on `Config.params`, of which nothing is known: their witnesses hold for every instance. -/

/-- A prepared state with no constants derived: `nch` channels, blocks of `len` of at most `max` samples. -/
def ready (nch : BitVec 5) (max len : BitVec 16) (factor : BitVec 3) : State :=
  { State.reset with
    prepared := true, actSr := numOne, actMaxblk := max, actNch := nch, actOsf := factor, blklen := len,
    cfgSr := numOne, cfgMaxblk := max, cfgNch := nch, cfgOsf := factor }

/-- The same, with a command word waiting. -/
def offered (w : Word) (s : State) : State := { s with cmds := [w] }

theorem runsOn_first (u : UnitId) : RunsOn (ready 1 4 4 2) 0 u :=
  ⟨⟨rfl, rfl, by decide, by decide⟩, by decide, by cases u <;> decide⟩

/-- The last channel, the longest block. -/
theorem runsOn_last (u : UnitId) : RunsOn (ready 16 65535 65535 4) 15 u :=
  ⟨⟨rfl, rfl, by decide, by decide⟩, by decide, by cases u <;> decide⟩

/-- The empty block. -/
theorem runsOn_empty (u : UnitId) : RunsOn (ready 1 4 0 2) 0 u :=
  ⟨⟨rfl, rfl, by decide, by decide⟩, by decide, by cases u <;> decide⟩

theorem witness_DecodeTakesTheMatchingRow :
    (∃ r ∈ opRows, (0x16080703#32 : Word) &&& r.mask = r.pattern) ∧
        ∀ r ∈ opRows, (0x17000000#32 : Word) &&& r.mask ≠ r.pattern := by
  decide

theorem witness_DecodeOfEncodeIsTheInstruction : (Instr.bqcRun 15 .hi 15 15).wf = true ∧ Instr.nop.wf = true := by
  decide

theorem witness_DecodedWordIsItsEncoding : decode 0x16080703#32 = .ok (.bqcRun 0 .hi 3 7) := rfl

theorem witness_RegisterAddressesAreDistinct :
    regAt referenceParams 0x0000#16 = some .status ∧ regAt referenceParams 0x0006#16 = some .chsel ∧
    regAt referenceParams 0x0422#16 = some .tsSo ∧ regAt referenceParams 0x0503#16 = some (.hbtap 0 0 0 3) ∧
    regAt referenceParams 0x0607#16 = some (.hblen 1 1 1) ∧ regAt referenceParams 0x0663#16 = some (.uph 1 3) ∧
    regAt referenceParams 0x06A3#16 = some (.dne 1 3) ∧ regAt referenceParams 0x06E1#16 = some (.dno 1 1) ∧
    regAt referenceParams 0x073C#16 = some (.bq 7 .a2) ∧ regAt referenceParams 0x079F#16 = some (.bs 7 .y2) := by
  decide +kernel

theorem witness_StepRunsTheDecodedCommand :
    (offered 0x00000000#32 State.reset).cmds = [0x00000000#32] ∧ decode 0x00000000#32 = .ok .nop := ⟨rfl, rfl⟩

theorem witness_StepEndsWithTheCommandList : State.reset.cmds = [] := rfl

/-- The first check of `RESET`, and each of the four of `BQC.RUN` in turn; and a word that is no command. -/
theorem witness_FirstFailingCheckIsRecorded :
    (State.reset.faulted = false ∧ firstFailing (checksOf Config.params State.reset (.reset 0)) = some .notPrepared) ∧
    ((ready 1 4 5 2).faulted = false ∧
      firstFailing (checksOf Config.params State.reset (.bqcRun 1 .lo 3 1)) = some .notPrepared ∧
      firstFailing (checksOf Config.params (ready 1 4 5 2) (.bqcRun 1 .lo 3 1)) = some .badChannel ∧
      firstFailing (checksOf Config.params (ready 1 4 5 2) (.bqcRun 0 .lo 3 1)) = some .badLength ∧
      firstFailing (checksOf Config.params (ready 1 4 4 2) (.bqcRun 0 .lo 3 1)) = some .badSection) ∧
    ((offered 0x07000000#32 State.reset).cmds = [0x07000000#32] ∧
      decode 0x07000000#32 = .error .unlistedOpcode) := by
  refine ⟨⟨rfl, rfl⟩, ⟨rfl, rfl, rfl, rfl, rfl⟩, rfl, rfl⟩

/-- One word needed: with one and with none. -/
theorem witness_PassedChecksCompleteOrWait :
    State.reset.faulted = false ∧ firstFailing (checksOf Config.params State.reset (.wreg 0x0005#16)) = none ∧
    needOf State.reset (.wreg 0x0005#16) ≤ ({ State.reset with din := [0#32] }).din.length ∧
    State.reset.din.length < needOf State.reset (.wreg 0x0005#16) := by
  refine ⟨rfl, rfl, by decide, by decide⟩

/-- One for each clause: a command, an unmapped `RREG`, a mapped one, an illegal word. -/
theorem witness_FaultedBlockDiscards :
    (raiseFault .badConfig State.reset).faulted = true ∧ (∀ a, Instr.nop ≠ .rreg a) ∧
    firstFailing (checksOf Config.params (raiseFault .badConfig State.reset) (.rreg 0x0007#16)) = some .badAddr ∧
    (regAt Config.params 0x0000#16 = some .status ∧
      firstFailing (checksOf Config.params (raiseFault .badConfig State.reset) (.rreg 0x0000#16)) = none) ∧
    (offered 0x07000000#32 (raiseFault .badConfig State.reset)).cmds = [0x07000000#32] ∧
    decode 0x07000000#32 = .error .unlistedOpcode := by
  refine ⟨rfl, fun a => by simp, rfl, ⟨rfl, rfl⟩, rfl, rfl⟩

/-- A step of a state in which all three bits are set. -/
theorem witness_StickyBitsAreNeverCleared :
    (fun s : State => s.prepared = true ∧ s.nf = true ∧ s.faulted = true ∧
        ∃ t, step s = .next t)
      (offered 0x00000000#32 (raiseFault .badLength { ready 1 4 5 2 with nf := true })) := by
  exact ⟨rfl, rfl, rfl, _, rfl⟩

theorem witness_EveryStepDrawsAfresh : ∃ t, step (offered 0xFFFFFFFF#32 State.reset) = .next t := ⟨_, rfl⟩

theorem witness_CommandCounterCountsEveryWord :
    ∃ t, Host.Core.run Sys2Proof.core 1 (offered 0x00000000#32 { State.reset with cc := 0xFFFFFFFF#32 }) = .next t :=
  ⟨_, rfl⟩

theorem witness_HardwareResetLeavesTheStatedValues :
    Reg.status.kind ≠ .roc ∧ (∀ j, Reg.status ≠ .bq j .b0) ∧ Reg.eps.kind = .roc := by
  refine ⟨by decide, fun j => by simp, rfl⟩

/-- The smallest and the largest accepted block of any instance, and factor 3. -/
theorem witness_PrepareLatchesDerivesAndResets :
    (ready 1 1 0 2).faulted = false ∧ ConfigAccepted Config.params (ready 1 1 0 2) ∧
    ConfigAccepted Config.params (ready 1 (BitVec.ofNat 16 Config.params.blkMax) 0 4) ∧
    ¬ ConfigAccepted Config.params (ready 1 1 0 3) := by
  have hb := Config.params.blkLess1.isLt
  have hn : (BitVec.ofNat 16 Config.params.blkMax).toNat = Config.params.blkMax := by
    simp only [BitVec.toNat_ofNat, Params.blkMax] at *; omega
  refine ⟨rfl, ⟨by decide, by decide, by decide, ?_, by decide, ?_, .inl rfl⟩,
    ⟨by decide, by decide, ?_, ?_, by decide, ?_, .inr rfl⟩, fun h => ?_⟩
  · show 1 ≤ _; simp [Params.blkMax]
  · show 1 ≤ _; simp [Params.nchMax]
  · show 1 ≤ (BitVec.ofNat 16 Config.params.blkMax).toNat; rw [hn]; simp [Params.blkMax]
  · show (BitVec.ofNat 16 Config.params.blkMax).toNat ≤ _; rw [hn]
  · show 1 ≤ _; simp [Params.nchMax]
  · exact absurd h.factor (by decide)

theorem witness_PrepareTwiceIsPrepareOnce :
    (configured 0x473B8000#32 2#3).faulted = false ∧ ConfigAccepted referenceParams (configured 0x473B8000#32 2#3) ∧
    ∃ t, prepareOn referenceParams (configured 0x473B8000#32 2#3) = .next t ∧ allFinite (derivedValues t) = true := by
  refine ⟨rfl, ⟨by decide, by decide +kernel, by decide, by decide, by decide, by decide, .inl rfl⟩, ?_⟩
  have hc : configCheck referenceParams (configured 0x473B8000#32 2#3) = none := by decide +kernel
  have hf : allFinite (derivedValues (advance (prepareBody referenceParams (configured 0x473B8000#32 2#3)))) =
      true := by
    decide +kernel
  exact ⟨advance (prepareBody referenceParams (configured 0x473B8000#32 2#3)),
    by rw [prepareOn, hc]; rfl, hf⟩

theorem witness_OnlyPrepareChangesTheConstants :
    Instr.reset 0x3F#6 ≠ .prepare ∧ ∃ t, exec (.reset 0x3F#6) (ready 1 4 4 2) = .next t := ⟨by simp, _, rfl⟩

theorem witness_ResetClearsTheSelectedUnits :
    (ready 1 4 4 2).faulted = false ∧ (ready 1 4 4 2).prepared = true ∧ State.reset.faulted = false ∧
    State.reset.prepared = false := ⟨rfl, rfl, rfl, rfl⟩

/-- A setting, the channel select, and a coefficient, which every instance has in section 0. -/
theorem witness_WregStoresTheLowBits :
    ({ State.reset with din := [0#32] }).faulted = false ∧ ({ State.reset with din := [0#32] }).din = [0#32] ∧
    (regAt Config.params 0x0005#16 = some .blklen ∧ Reg.blklen.kind = .rw) ∧
    (regAt Config.params 0x0006#16 = some .chsel ∧ Reg.chsel.kind = .rw) ∧
    (regAt Config.params 0x0704#16 = some (.bq 0 .a2) ∧ (Reg.bq 0 .a2).kind = .rw) := by
  refine ⟨rfl, rfl, ⟨rfl, rfl⟩, ⟨rfl, rfl⟩, ?_, rfl⟩
  have h : (0 : Nat) < Config.params.nsec := by simp [Params.nsec]
  have hq : bqAt Config.params 4 = some (.bq 0 .a2) := by simp [bqAt, h, bqFieldAt]
  have hf : fixedRegs.lookup (0x0704#16).toNat = none := by decide +kernel
  have hr : rangedReg Config.params (0x0704#16).toNat = bqAt Config.params 4 := by simp [rangedReg]
  simp only [regAt, hf, hr, hq]

/-- A register that needs nothing, and a window. -/
theorem witness_RregPushesTheRegister :
    (regAt Config.params 0x0000#16 = some .status ∧ Reg.status.kind ≠ .window) ∧
    (regAt Config.params 0x0420#16 = some .tsSi ∧ (ready 1 4 4 2).prepared = true ∧
      (ready 1 4 4 2).chsel.toNat < (ready 1 4 4 2).actNch.toNat) := by
  refine ⟨⟨rfl, by decide⟩, rfl, rfl, by decide⟩

/-- Both buffers of a block of two samples, with exactly the words they take; and the empty block. -/
theorem witness_LdblkFillsTheBuffer :
    (fun s : State => ReadyFor s 0 ∧ 0 < 16 ∧ lenOf s .hi ≤ s.din.length)
      { ready 1 2 2 2 with din := [1#32, 2#32, 3#32, 4#32] } ∧
    (fun s : State => ReadyFor s 0 ∧ 0 < 16 ∧ lenOf s .lo ≤ s.din.length) { ready 1 2 2 2 with din := [1#32, 2#32] } ∧
    (fun s : State => ReadyFor s 15 ∧ 15 < 16 ∧ lenOf s .hi ≤ s.din.length) (ready 16 2 0 4) := by
  refine ⟨⟨⟨rfl, rfl, by decide, by decide⟩, by decide, by decide⟩,
    ⟨⟨rfl, rfl, by decide, by decide⟩, by decide, by decide⟩, ⟨rfl, rfl, by decide, by decide⟩, by decide, by decide⟩

theorem witness_StoreAfterLoadReturnsTheWords :
    (fun s : State => ReadyFor s 0 ∧ 0 < 16 ∧ lenOf s .hi ≤ s.din.length)
      { ready 1 2 2 4 with din := List.replicate 8 1#32 } :=
  ⟨⟨rfl, rfl, by decide, by decide⟩, by decide, by decide⟩

/-- A written cell and one that is not. -/
theorem witness_StblkPushesTheCells :
    (fun s : State => ReadyFor s 0 ∧ 0 < lenOf s .lo ∧ memGet ((s.chan 0).buf .lo) 0 = some 7#32 ∧
        memGet ((s.chan 0).buf .lo) 1 = none)
      ((ready 1 2 2 2).setChan 0 (holding [7#32] [])) :=
  ⟨⟨rfl, rfl, by decide, by decide⟩, by decide, by decide +kernel, by decide +kernel⟩

/-- All six units bypassed: checks that pass, and a check that fails. -/
theorem witness_BypassedUnitIsANop :
    (fun s : State => unitOf (.triRun 0) = some .tri ∧ bypassed s .tri = true ∧ s.faulted = false ∧
        firstFailing (checksOf Config.params s (.triRun 0)) = none ∧
        firstFailing (checksOf Config.params s (.triRun 1)) = some .badChannel)
      { ready 1 4 4 2 with bypass := 0x3F#6 } := ⟨rfl, by decide, rfl, rfl, rfl⟩

theorem witness_LwsRunAppliesOmega : RunsOn (ready 1 4 4 2) 0 .lws ∧ RunsOn (ready 16 65535 65535 4) 15 .lws :=
  ⟨runsOn_first _, runsOn_last _⟩

theorem witness_OmegaOfZeroIsTheConstantTerm :
    isZero 0x00000000#32 = true ∧ isZero 0x80000000#32 = true ∧ isZero referenceParams.omegaP[0] = false ∧
    isNan referenceParams.omegaP[0] = false ∧ finite referenceParams.omegaP[1] = true ∧
    finite referenceParams.omegaP[2] = true ∧ finite referenceParams.omegaP[3] = true ∧
    finite referenceParams.omegaP[4] = true ∧ finite referenceParams.omegaP[5] = true := by decide +kernel

/-- A NaN, both ends of the polynomial's range, the next number on each side, and both infinities. -/
theorem witness_OmegaBranchesAtOneAndAHalf :
    isNan 0x7FC00000#32 = true ∧
    (finite 0x3FC00000#32 = true ∧ |numValue 0x3FC00000#32| ≤ 3 / 2) ∧
    (finite 0xBFC00000#32 = true ∧ |numValue 0xBFC00000#32| ≤ 3 / 2) ∧
    (finite 0x3FC00001#32 = true ∧ 3 / 2 < |numValue 0x3FC00001#32|) ∧
    (finite 0xBFC00001#32 = true ∧ 3 / 2 < |numValue 0xBFC00001#32|) ∧
    isInf 0x7F800000#32 = true ∧ isInf 0xFF800000#32 = true := by
  refine ⟨by decide, ⟨by decide, ?_⟩, ⟨by decide, ?_⟩, ⟨by decide, ?_⟩, ⟨by decide, ?_⟩, by decide, by decide⟩ <;>
    decide +kernel

theorem witness_DwsRunIteratesTheDiode : RunsOn (ready 1 4 4 2) 0 .dws ∧ RunsOn (ready 1 4 0 2) 0 .dws :=
  ⟨runsOn_first _, runsOn_empty _⟩

/-- A block of both zeros on channel 0 of the reference instance. -/
def silent : State := (prepared48 1).setChan 0 (holding [] [0x00000000#32, 0x80000000#32])

theorem silent_cells : ∀ i, i < lenOf silent .hi → ∃ x, memGet (silent.chan 0).bufHi i = some x ∧
    isZero x = true := by
  have h0 : memGet (silent.chan 0).bufHi 0 = some 0x00000000#32 := by decide +kernel
  have h1 : memGet (silent.chan 0).bufHi 1 = some 0x80000000#32 := by decide +kernel
  have hl : lenOf silent .hi = 2 := by decide +kernel
  intro i hi
  rw [hl] at hi
  obtain rfl | rfl : i = 0 ∨ i = 1 := by omega
  · exact ⟨_, h0, by decide⟩
  · exact ⟨_, h1, by decide⟩

theorem silent_runs (u : UnitId) : RunsOn silent 0 u :=
  ⟨⟨by decide +kernel, by decide +kernel, by decide +kernel, by decide +kernel⟩, by decide, by
    cases u <;> decide +kernel⟩

theorem witness_DwsSilenceStaysSilent :
    RunsOn silent 0 .dws ∧ finite silent.dk.a = true ∧ finite silent.dk.b = true ∧ (silent.chan 0).dsV = posZero ∧
    ∀ i, i < lenOf silent .hi → ∃ x, memGet (silent.chan 0).bufHi i = some x ∧ isZero x = true :=
  ⟨silent_runs _, by decide +kernel, by decide +kernel, by decide +kernel, silent_cells⟩

theorem witness_OacRunAppliesTheVariant : RunsOn (ready 1 4 4 2) 0 .oac ∧ RunsOn (ready 16 65535 65535 4) 15 .oac :=
  ⟨runsOn_first _, runsOn_last _⟩

theorem witness_KneeVariantAtZeroAndNan :
    isZero 0x00000000#32 = true ∧ isZero 0x80000000#32 = true ∧ isNan 0xFFFFFFFF#32 = true := by decide

theorem witness_TriRunIteratesTheTriode : RunsOn (ready 1 4 4 2) 0 .tri ∧ RunsOn (ready 1 4 0 2) 0 .tri :=
  ⟨runsOn_first _, runsOn_empty _⟩

/-- The smallest conducting e0; cutoff at e0 = +0.0, below and at a NaN, with dpk = -0.0 and 1.0; dpk = -1.0; and a NaN
dpk. -/
theorem witness_TriSolverBranches :
    flt posZero 0x00000001#32 = true ∧ flt posZero 0x7FC00000#32 = false ∧ isNan 0x7FC00000#32 = true ∧
    flt posZero 0x00000000#32 = false ∧ flt posZero 0xBF800000#32 = false ∧
    (flt 0x80000000#32 posZero = false ∧ isNan 0x80000000#32 = false) ∧
    (flt 0x3F800000#32 posZero = false ∧ isNan 0x3F800000#32 = false) ∧
    flt 0xBF800000#32 posZero = true ∧ finite 0x47B1921E#32 = true := by
  refine ⟨?_, ?_, ?_, ?_, ?_, ⟨?_, ?_⟩, ⟨?_, ?_⟩, ?_, ?_⟩ <;> decide +kernel

theorem witness_TriSilenceFromRestIsSilence :
    RunsOn silent 0 .tri ∧ silent.tk = deriveTri referenceParams [3, 0] 0x47BB8000#32 ∧
    finite 0x47BB8000#32 = true ∧ flt posZero 0x47BB8000#32 = true ∧ allFinite silent.tk.values = true ∧
    (silent.chan 0).ts = ⟨posZero, posZero, posZero⟩ ∧
    ∀ i, i < lenOf silent .hi → ∃ x, memGet (silent.chan 0).bufHi i = some x ∧ isZero x = true :=
  ⟨silent_runs _, by decide +kernel, by decide, by decide +kernel, by decide +kernel, by decide +kernel, silent_cells⟩

/-- The shortest and the longest history. -/
theorem witness_PushShiftsTheHistory : (1 ≤ 1 ∧ 1 ≤ 32) ∧ (1 ≤ 32 ∧ 32 ≤ 32) := by decide

theorem witness_OvsUpFillsTheHighRateBuffer :
    (RunsOn (ready 1 4 4 2) 0 .ovs ∧ (ready 1 4 4 2).actOsf = 2#3) ∧
    (RunsOn (ready 16 65535 65535 4) 15 .ovs ∧ (ready 16 65535 65535 4).actOsf = 4#3) :=
  ⟨⟨runsOn_first _, rfl⟩, runsOn_last _, rfl⟩

theorem witness_OvsDownFillsTheBaseRateBuffer :
    (RunsOn (ready 1 4 0 2) 0 .ovs ∧ (ready 1 4 0 2).actOsf = 2#3) ∧
    (RunsOn (ready 16 65535 65535 4) 15 .ovs ∧ (ready 16 65535 65535 4).actOsf = 4#3) :=
  ⟨⟨runsOn_empty _, rfl⟩, runsOn_last _, rfl⟩

/-- The one section every instance has, and all the sections of any instance. -/
theorem witness_BqcRunIteratesTheCascade :
    RunsOn (ready 1 4 4 2) 0 .bqc ∧ (0 ≤ 0 ∧ 0 < Config.params.nsec) ∧
    (0 ≤ Config.params.nsec - 1 ∧ Config.params.nsec - 1 < Config.params.nsec) := by
  refine ⟨runsOn_first _, ⟨le_refl _, by simp [Params.nsec]⟩, Nat.zero_le _, by simp [Params.nsec]⟩

/-- The largest finite number, and both zeros. -/
theorem witness_IdentitySectionPassesFiniteSamples :
    finite 0x7F7FFFFF#32 = true ∧ isZero 0x7F7FFFFF#32 = false ∧ finite 0x80000000#32 = true ∧
    isZero 0x80000000#32 = true ∧ allFinite (⟨0x3F800000#32, 0xFF7FFFFF#32, 0#32,
        0x80000000#32⟩ : BiquadState).values = true := by
  decide

/-- Channel 0 of two, with another channel 1 in the second state. -/
theorem witness_ChannelsAreIndependent :
    (fun s s' : State => channelOf (.stblk 0 .lo) = some 0 ∧ s' = { s with chans := s'.chans } ∧
        s'.chan 0 = s.chan 0 ∧ s'.chan 1 ≠ s.chan 1 ∧ ∃ t, exec (.stblk 0 .lo) s = .next t)
      (ready 2 4 4 2) ((ready 2 4 4 2).setChan 1 (holding [1#32] [])) :=
  ⟨rfl, rfl, by decide +kernel, by decide +kernel, _, rfl⟩

/-- A prepared block with samples written up to the last cells of both buffers, and a `NOP` waiting. -/
def filled : State :=
  offered 0x00000000#32 ((ready 1 2 2 2).setChan 0 (holding [7#32, 8#32] [1#32, 2#32, 3#32, 4#32]))

theorem filled_steps : ∃ t, step filled = .next t := ⟨_, rfl⟩

theorem filled_first : filled.chan 0 = holding [7#32, 8#32] [1#32, 2#32, 3#32, 4#32] := by decide +kernel

theorem filled_others (c : Nat) (h : c ≠ 0) : filled.chan c = Channel.reset := by
  by_cases hc : c < 16
  · have : ∀ c : Fin 16, c.val ≠ 0 → filled.chan c.val = Channel.reset := by decide +kernel
    exact this ⟨c, hc⟩ h
  · simp [State.chan, Vector.getD, hc]

theorem witness_StepKeepsTheBuffersInForm :
    BuffersCanonical filled ∧ BuffersInBounds filled ∧ ∃ t, step filled = .next t := by
  refine ⟨fun c => ?_, fun c i v => ?_, filled_steps⟩
  · by_cases h : c = 0
    · subst h; rw [filled_first]; decide +kernel
    · rw [filled_others c h]; decide
  · by_cases h : c = 0
    · subst h
      rw [filled_first]
      refine ⟨fun hv => ⟨by decide, ?_⟩, fun hv => ⟨by decide, ?_⟩⟩
      · have hb : (holding [7#32, 8#32] [1#32, 2#32, 3#32, 4#32]).bufLo = [(0, 7#32), (1, 8#32)] := by decide +kernel
        rw [hb] at hv
        show i < 2
        by_contra hi
        simp [memGet, show i ≠ 0 by omega, show i ≠ 1 by omega] at hv
      · have hb : (holding [7#32, 8#32] [1#32, 2#32, 3#32, 4#32]).bufHi =
          [(0, 1#32), (1, 2#32), (2, 3#32), (3, 4#32)] := by
          decide +kernel
        rw [hb] at hv
        show i < 2 * 2
        by_contra hi
        simp [memGet, show i ≠ 0 by omega, show i ≠ 1 by omega, show i ≠ 2 by omega, show i ≠ 3 by omega] at hv
    · rw [filled_others c h]
      exact ⟨nofun, nofun⟩

theorem witness_StepKeepsTheRecordsConsistent :
    (fun s : State => FaultRecordAgrees s ∧ ConfigInForceLegal Config.params s ∧ UntouchedUntilPrepared s ∧
        ∃ t, step s = .next t)
      (offered 0x00000000#32 (ready 1 1 1 2)) := by
  refine ⟨⟨fun _ => ⟨rfl, rfl⟩, nofun⟩, ⟨nofun, fun _ => ?_⟩, nofun, _, rfl⟩
  exact ⟨by decide, by decide, by decide, show 1 ≤ Config.params.blkMax by simp [Params.blkMax], by decide,
    show 1 ≤ Config.params.nchMax by simp [Params.nchMax], .inl rfl⟩

theorem getD_replicate {α : Type} (n k : Nat) (x : α) : (Vector.replicate n x).getD k x = x := by
  rw [vector_getD]; split <;> simp

theorem witness_StepLeavesTheUnreachableReset :
    UnreachableIsReset Config.params filled ∧ ∃ t, step filled = .next t := by
  have hb : filled.bq = Vector.replicate 16 Biquad.identity := rfl
  have hs : ∀ c, (filled.chan c).bs = Vector.replicate 16 BiquadState.reset := fun c => by
    by_cases h : c = 0
    · subst h; rw [filled_first]; rfl
    · rw [filled_others c h]; rfl
  have ho : ∀ c, (filled.chan c).ovs = Vector.replicate 2 OvsStage.reset := fun c => by
    by_cases h : c = 0
    · subst h; rw [filled_first]; rfl
    · rw [filled_others c h]; rfl
  refine ⟨⟨fun c hc => filled_others c ?_, fun j _ => ⟨?_, fun c => ?_⟩, fun c i k => ?_⟩, filled_steps⟩
  · rintro rfl; exact absurd hc (by decide)
  · rw [hb, getD_replicate]
  · rw [hs, getD_replicate]
  · rw [ho]
    simp only [Vector.getElem_replicate, Fin.getElem_fin, OvsStage.reset, getD_replicate, implies_true, and_self]

theorem witness_StepKeepsFiniteUnlessFlagged :
    filled.nf = false ∧ FiniteUnlessFlagged filled ∧ ∃ t, step filled = .next t := by
  refine ⟨rfl, fun _ => ⟨by decide, fun c => ?_⟩, filled_steps⟩
  by_cases h : c = 0
  · subst h; rw [filled_first]; unfold CellsFinite; decide +kernel
  · rw [filled_others c h]; unfold CellsFinite; decide +kernel

/-- The largest and the smallest magnitude. -/
theorem witness_SumIsRoundedOnce : finite 0x7F7FFFFF#32 = true ∧ finite 0x00000001#32 = true := by decide

theorem witness_ProductIsRoundedOnce : finite 0x7F7FFFFF#32 = true ∧ finite 0x80000001#32 = true := by decide

theorem witness_QuotientIsRoundedOnce :
    finite 0x7F7FFFFF#32 = true ∧ finite 0x80000001#32 = true ∧ isZero 0x80000001#32 = false := by decide

theorem witness_RootIsRoundedOnce :
    (finite 0x7F7FFFFF#32 = true ∧ 0 ≤ numValue 0x7F7FFFFF#32) ∧ (finite 0x80000000#32 = true ∧
        0 ≤ numValue 0x80000000#32) := by
  decide +kernel

/-- A NaN operand, finite operands, a positive, a negative, a zero, a NaN for `signed`, the largest exact integer. -/
theorem witness_HelpersAreExact :
    isNan 0xFFC00001#32 = true ∧ finite 0x7F7FFFFF#32 = true ∧ flt posZero 0x00000001#32 = true ∧
    flt 0x80000001#32 posZero = true ∧ isZero 0x80000000#32 = true ∧ 2 ^ 24 ≤ 2 ^ 24 := by decide

/-- The smallest and the largest component value, and both ends of the two bounds of the domain of `omega`. -/
theorem witness_ComponentValuesArePositive :
    (finite 0x00000001#32 = true ∧ flt posZero 0x00000001#32 = true) ∧
    (finite 0x7F7FFFFF#32 = true ∧ flt posZero 0x7F7FFFFF#32 = true) ∧
    (isNan 0x3FC00000#32 = false ∧ flt 0x3FC00000#32 0x3FC00000#32 = false) ∧
    (isNan 0x7F800000#32 = false ∧ flt 0x7F800000#32 0x3FC00000#32 = false) ∧
    (isNan 0xBFC00000#32 = false ∧ flt 0xBFC00000#32 0xBFC00000#32 = false) ∧
    (isNan 0xFF800000#32 = false ∧ flt 0xBFC00000#32 0xFF800000#32 = false) := by
  refine ⟨by decide, by decide, ⟨by decide, ?_⟩, ⟨by decide, ?_⟩, ⟨by decide, ?_⟩, by decide, ?_⟩ <;> decide +kernel

end Sys2Proof.Tests
end

