-- ==== Sys2Proof/Proofs/Arithmetic.lean ====
section
/-! PROOFS. The arithmetic of spec R8, R11 and R12, the types of R6, and the end of the run (R19). The values of the words
are read in real numbers, and each operation on finite operands is brought to one rounding of a fraction of
naturals, which `roundsTo_mag` speaks about. -/

namespace Sys2Proof.Proofs

open Sys2Proof.Machine

/-! ### The value of a word in real numbers -/

/-- The factor of a sign bit: -1 when it is set. -/
noncomputable def signFactor (s : Bool) : ℝ := if s then -1 else 1

@[simp] theorem signFactor_false : signFactor false = 1 := rfl

@[simp] theorem signFactor_true : signFactor true = -1 := rfl

theorem signFactor_bne (s t : Bool) : signFactor (s != t) = signFactor s * signFactor t := by
  cases s <;> cases t <;> simp

theorem signFactor_div (s t : Bool) : signFactor (s != t) = signFactor s / signFactor t := by
  cases s <;> cases t <;> simp

theorem numValue_eq_units (a : Num32) : (numValue a : ℝ) = signFactor (signOf a) * units a / realUnit := by
  rw [numValue_real, units_eq]; rfl

theorem numValue_eq_signedUnits (a : Num32) : (numValue a : ℝ) = (signedUnits a : ℝ) / realUnit := by
  unfold numValue realUnit; push_cast; rfl

theorem numValue_zero {a : Num32} (h : isZero a = true) : numValue a = 0 := by
  rw [numValue, signedUnits_zero h, Int.cast_zero, zero_div]

theorem numValue_neg_of_sign {a : Num32} (hs : signOf a = true) (hz : isZero a = false) : numValue a < 0 := by
  have hu := units_pos hz
  have hneg : signedUnits a < 0 := by rw [signedUnits, if_pos hs]; omega
  exact div_neg_of_neg_of_pos (by exact_mod_cast hneg) (by positivity)

/-- Values stand in the order of the signed units. -/
theorem numValue_lt_iff (a b : Num32) : numValue a < numValue b ↔ signedUnits a < signedUnits b := by
  unfold numValue
  rw [div_lt_div_iff_of_pos_right (by positivity), Int.cast_lt]

theorem numValue_eq_iff (a b : Num32) : numValue a = numValue b ↔ signedUnits a = signedUnits b := by
  unfold numValue
  rw [div_left_inj' (by positivity), Int.cast_inj]

theorem signedUnits_fneg (a : Num32) : signedUnits (fneg a) = -signedUnits a := by
  unfold signedUnits
  rw [units_eq, units_eq, magOf_fneg, signOf_fneg]
  cases signOf a <;> simp

theorem numValue_fneg (a : Num32) : numValue (fneg a) = -numValue a := by
  unfold numValue
  rw [signedUnits_fneg, Int.cast_neg, neg_div]

/-- A finite magnitude is below 2^128, that is 2^277 units. -/
theorem units_lt {a : Num32} (h : finite a = true) : units a < 2 ^ 277 := by
  have hinf : magUnits 0x7F800000 = 2 ^ 277 := by decide +kernel
  rw [units_eq, ← hinf]
  exact magUnits_lt ((finite_iff a).mp h)

/-! ### Rounding an exact result -/

/-- A real that is n/d units with a sign rounds to the word `roundMag` builds. -/
theorem roundsTo_pack {x : ℝ} {s : Bool} {n d : Nat} (hd : 0 < d) (hx : x = signFactor s * ((n : ℝ) / d) / realUnit) :
    RoundsTo x (pack s (roundMag n d)) :=
  hx ▸ roundsTo_mag s n hd

theorem roundMag_zero (d : Nat) : roundMag 0 d = 0 := by unfold roundMag roundQuot; simp

/-- Both zeros are zero rounded. -/
theorem roundsTo_zeroOf (s : Bool) : RoundsTo 0 (zeroOf s) := by
  have h := roundsTo_pack (x := 0) (s := s) (n := 0) Nat.one_pos (by simp)
  rwa [roundMag_zero] at h

theorem roundsTo_roundUnits (z : ℤ) : RoundsTo ((z : ℝ) / realUnit) (roundUnits z) := by
  refine roundsTo_pack Nat.one_pos ?_
  rw [Nat.cast_natAbs, Nat.cast_one, div_one]
  rcases lt_or_ge z 0 with hz | hz
  · rw [decide_eq_true hz, abs_of_neg hz]; simp
  · rw [decide_eq_false (not_lt.mpr hz), abs_of_nonneg hz]; simp

/-- A real strictly between r and r + 1 rounds as the half between them does, when r has more bits than a significand:
every rounding boundary is then a whole number of units. -/
theorem roundsTo_of_between {X : ℝ} {r : Nat} (hr : 2 ^ 24 ≤ r) (hlt : (r : ℝ) < X) (hgt : X < r + 1) :
    RoundsTo (X / realUnit) (pack false (roundMag (2 * r + 1) 2)) := by
  obtain ⟨shift, k, hm, hk, hsk, hlo, hhi, habove, hbelow, -⟩ := roundMag_spec (2 * r + 1) (d := 2) Nat.two_pos
  obtain ⟨t, rfl⟩ : ∃ t, shift = t + 1 := by
    refine Nat.exists_eq_succ_of_ne_zero ?_
    rintro rfl
    omega
  have hrlo : 2 ^ (23 + (t + 1)) ≤ r := by omega
  have hrhi : r + 1 ≤ 2 ^ (24 + (t + 1)) := by omega
  have hrabove : 2 * (r + 1) ≤ (2 * k + 1) * 2 ^ (t + 1) := by
    have e : (2 * k + 1) * 2 ^ (t + 1) = 2 * ((2 * k + 1) * 2 ^ t) := by ring
    rw [Nat.mul_left_comm, e] at habove
    rw [e]; omega
  have hrbelow : 2 * (k * 2 ^ (t + 1)) ≤ 2 * r + 2 ^ (t + 1) := by
    have e : 2 ^ (t + 1) = 2 * 2 ^ t := by ring
    rw [Nat.mul_left_comm k 2] at hbelow
    generalize k * 2 ^ (t + 1) = z at *
    omega
  have hrlo' : (2 : ℝ) ^ (23 + (t + 1)) ≤ r := by exact_mod_cast hrlo
  have hrhi' : (r : ℝ) + 1 ≤ 2 ^ (24 + (t + 1)) := by exact_mod_cast hrhi
  have hrabove' : 2 * ((r : ℝ) + 1) ≤ (2 * k + 1) * 2 ^ (t + 1) := by exact_mod_cast hrabove
  have hrbelow' : 2 * ((k : ℝ) * 2 ^ (t + 1)) ≤ 2 * r + 2 ^ (t + 1) := by exact_mod_cast hrbelow
  have hX : 0 ≤ X := r.cast_nonneg.trans hlt.le
  have hround := roundsTo_grid X false (t + 1) k hX hk hsk (.inr (by linarith)) (by linarith) (by linarith)
    (by linarith) (by rintro (h | h) <;> linarith)
  rw [hm]
  simpa using hround

/-- The bits 30:0 that `sqrt?` gives for the root of n, in units of 2^-149; `fsqrt_positive` ties it to the machine. -/
def rootMag (n : Nat) : Nat :=
  if natSqrt n * natSqrt n = n then roundMag (natSqrt n) 1 else roundMag (2 * natSqrt n + 1) 2

/-- The root is exact when n is a square, and else strictly between two whole numbers of units. -/
theorem rootMag_roundsTo {n : Nat} (hlower : 2 ^ 48 ≤ n) (hupper : n < 2 ^ 213 * 2 ^ 213) :
    RoundsTo (Real.sqrt n / realUnit) (pack false (rootMag n)) := by
  obtain ⟨hle, hlt⟩ := natSqrt_spec hupper
  unfold rootMag
  generalize natSqrt n = r at *
  split
  · rename_i hsq
    refine roundsTo_pack Nat.one_pos ?_
    rw [← hsq, Nat.cast_mul, Real.sqrt_mul_self r.cast_nonneg]
    simp
  · rename_i hsq
    have hr : 2 ^ 24 ≤ r := by
      by_contra hc
      have : (r + 1) * (r + 1) ≤ 2 ^ 24 * 2 ^ 24 := Nat.mul_le_mul (by omega) (by omega)
      omega
    have hr0 : (r : ℝ) * r < n := by exact_mod_cast lt_of_le_of_ne hle hsq
    have hr1 : (n : ℝ) < (r + 1) * (r + 1) := by exact_mod_cast hlt
    refine roundsTo_of_between hr (Real.lt_sqrt_of_sq_lt (by rwa [sq])) ?_
    rwa [Real.sqrt_lt' (by positivity), sq]

/-! ### The operations on finite operands -/

section FiniteOperands

variable {a b : Num32}

theorem fadd_finite (d : Draw) (ha : finite a = true) (hb : finite b = true) :
    fadd d a b = if signedUnits a + signedUnits b = 0 then zeroOf (signOf a && signOf b)
      else roundUnits (signedUnits a + signedUnits b) := by
  unfold fadd add?
  simp only [finite_not_nan ha, finite_not_nan hb, finite_not_inf ha, finite_not_inf hb, Bool.or_self,
    Bool.false_eq_true, if_false]
  exact apply_ite (orNan d) _ _ _

theorem fmul_finite (d : Draw) (ha : finite a = true) (hb : finite b = true) :
    fmul d a b = pack (signOf a != signOf b) (roundMag (units a * units b) (2 ^ 149)) := by
  unfold fmul mul?
  simp [finite_not_nan ha, finite_not_nan hb, finite_not_inf ha, finite_not_inf hb, orNan_some]

theorem fdiv_finite (d : Draw) (ha : finite a = true) (hb : finite b = true) (hz : isZero b = false) :
    fdiv d a b = pack (signOf a != signOf b) (roundMag (units a * 2 ^ 149) (units b)) := by
  unfold fdiv div?
  simp [finite_not_nan ha, finite_not_nan hb, finite_not_inf ha, finite_not_inf hb, hz, orNan_some]

theorem fsqrt_zero (d : Draw) (hz : isZero a = true) : fsqrt d a = a := by
  unfold fsqrt sqrt?
  simp [finite_not_nan (zero_finite hz), hz, orNan_some]

theorem fsqrt_positive (d : Draw) (ha : finite a = true) (hz : isZero a = false) (hs : signOf a = false) :
    fsqrt d a = pack false (rootMag (units a * 2 ^ 149)) := by
  unfold fsqrt sqrt? rootMag
  simp [finite_not_nan ha, finite_not_inf ha, hz, hs, orNan_some]

/-! ### Each operation rounds the exact result once (R8) -/

theorem fadd_roundsTo (d : Draw) (ha : finite a = true) (hb : finite b = true) :
    RoundsTo ((numValue a : ℝ) + (numValue b : ℝ)) (fadd d a b) := by
  have hsum : (numValue a : ℝ) + (numValue b : ℝ) = ((signedUnits a + signedUnits b : ℤ) : ℝ) / realUnit := by
    rw [numValue_eq_signedUnits, numValue_eq_signedUnits, Int.cast_add, add_div]
  rw [fadd_finite d ha hb, hsum]
  split
  · rename_i h
    rw [h, Int.cast_zero, zero_div]
    exact roundsTo_zeroOf _
  · exact roundsTo_roundUnits _

theorem fsub_roundsTo (d : Draw) (ha : finite a = true) (hb : finite b = true) :
    RoundsTo ((numValue a : ℝ) - (numValue b : ℝ)) (fsub d a b) := by
  have h := fadd_roundsTo d ha ((finite_fneg b).trans hb)
  rwa [numValue_fneg, Rat.cast_neg, ← sub_eq_add_neg] at h

theorem fmul_roundsTo (d : Draw) (ha : finite a = true) (hb : finite b = true) :
    RoundsTo ((numValue a : ℝ) * (numValue b : ℝ)) (fmul d a b) := by
  rw [fmul_finite d ha hb]
  refine roundsTo_pack (by positivity) ?_
  rw [numValue_eq_units, numValue_eq_units, signFactor_bne]
  unfold realUnit
  push_cast
  ring

theorem fdiv_roundsTo (d : Draw) (ha : finite a = true) (hb : finite b = true) (hz : isZero b = false) :
    RoundsTo ((numValue a : ℝ) / (numValue b : ℝ)) (fdiv d a b) := by
  rw [fdiv_finite d ha hb hz]
  refine roundsTo_pack (units_pos hz) ?_
  have hunit : ((2 ^ 149 : ℕ) : ℝ) = realUnit := by unfold realUnit; norm_cast
  rw [numValue_eq_units, numValue_eq_units, signFactor_div, div_div_div_cancel_right₀ realUnit_pos.ne',
    mul_div_mul_comm, Nat.cast_mul, hunit]
  have := realUnit_pos.ne'
  field_simp

theorem signOf_fmul (d : Draw) (ha : finite a = true) (hb : finite b = true) :
    signOf (fmul d a b) = (signOf a != signOf b) := by
  rw [fmul_finite d ha hb, signOf_pack _ (roundMag_lt _ _)]

theorem signOf_fdiv (d : Draw) (ha : finite a = true) (hb : finite b = true) (hz : isZero b = false) :
    signOf (fdiv d a b) = (signOf a != signOf b) := by
  rw [fdiv_finite d ha hb hz, signOf_pack _ (roundMag_lt _ _)]

/-- The root of u units is the root of u * 2^149, in units. -/
theorem sqrt_numValue (hs : signOf a = false) :
    Real.sqrt (numValue a : ℝ) = Real.sqrt ((units a * 2 ^ 149 : ℕ) : ℝ) / realUnit := by
  have hunit := realUnit_pos
  have hval : (numValue a : ℝ) = ((units a * 2 ^ 149 : ℕ) : ℝ) / (realUnit * realUnit) := by
    rw [numValue_eq_units, hs, signFactor_false, one_mul, Nat.cast_mul, Nat.cast_pow, Nat.cast_ofNat]
    exact (mul_div_mul_right _ _ hunit.ne').symm
  rw [hval, Real.sqrt_div (Nat.cast_nonneg _), Real.sqrt_mul_self hunit.le]

theorem fsqrt_positive_roundsTo (d : Draw) (ha : finite a = true) (hz : isZero a = false) (hs : signOf a = false) :
    RoundsTo (Real.sqrt (numValue a : ℝ)) (fsqrt d a) := by
  have hupper : units a * 2 ^ 149 < 2 ^ 213 * 2 ^ 213 := by
    have := units_lt ha
    rw [← pow_add, show 213 + 213 = 277 + 149 from rfl, pow_add]
    exact Nat.mul_lt_mul_of_pos_right this (by positivity)
  have hlower : 2 ^ 48 ≤ units a * 2 ^ 149 := by
    have := units_pos hz
    omega
  rw [sqrt_numValue hs, fsqrt_positive d ha hz hs]
  exact rootMag_roundsTo hlower hupper

end FiniteOperands

/-- Settles O51: sum and difference are one rounding of the exact count of units. -/
theorem sumIsRoundedOnce : Obligations.SumIsRoundedOnce :=
  fun d _ _ ha hb => ⟨fadd_roundsTo d ha hb, fsub_roundsTo d ha hb⟩

/-- Settles O52: the magnitudes multiply to a fraction of units, and the signs by themselves. -/
theorem productIsRoundedOnce : Obligations.ProductIsRoundedOnce :=
  fun d _ _ ha hb => ⟨fmul_roundsTo d ha hb, signOf_fmul d ha hb⟩

/-- Settles O53: in the ratio of two counts of units the unit itself is put back once. -/
theorem quotientIsRoundedOnce : Obligations.QuotientIsRoundedOnce :=
  fun d _ _ ha hb hz => ⟨fdiv_roundsTo d ha hb hz, signOf_fdiv d ha hb hz⟩

/-- Settles O54: a zero is its own root; above zero the whole part of the root decides the rounding. -/
theorem rootIsRoundedOnce : Obligations.RootIsRoundedOnce := by
  intro d a ha hnonneg
  cases hz : isZero a
  · cases hs : signOf a
    · exact fsqrt_positive_roundsTo d ha hz hs
    · exact absurd hnonneg (not_le.mpr (numValue_neg_of_sign hs hz))
  · rw [fsqrt_zero d hz, numValue_zero hz, Rat.cast_zero, Real.sqrt_zero, zero_eq hz]
    exact roundsTo_zeroOf _

/-! ### Which operations give a NaN (R11) -/

@[simp] theorem isNan_infinity (s : Bool) : isNan (infinity s) = false := by cases s <;> decide

@[simp] theorem isNan_zeroOf (s : Bool) : isNan (zeroOf s) = false := by cases s <;> decide

@[simp] theorem isNan_roundUnits (z : Int) : isNan (roundUnits z) = false := pack_roundMag_not_nan _ _ _

theorem inf_not_zero {a : Num32} (h : isInf a = true) : isZero a = false := by
  rw [← Bool.not_eq_true, isZero_iff]
  rw [isInf_iff] at h
  omega

/-- An operation whose results are never NaNs gives one exactly where it is invalid. -/
theorem isNan_orNan (d : Draw) {r : Option Num32} (h : ∀ y ∈ r, isNan y = false) :
    isNan (orNan d r) = true ↔ r = none := by
  cases r with
  | none => simp [orNan_none]
  | some y => simp [orNan_some, h y rfl]

theorem add?_not_nan (a b : Num32) : ∀ y ∈ add? a b, isNan y = false := by
  unfold add?
  split_ifs <;> simp_all

theorem mul?_not_nan (a b : Num32) : ∀ y ∈ mul? a b, isNan y = false := by
  unfold mul?
  dsimp only
  split_ifs <;> simp [pack_roundMag_not_nan]

theorem div?_not_nan (a b : Num32) : ∀ y ∈ div? a b, isNan y = false := by
  unfold div?
  dsimp only
  split_ifs <;> simp [pack_roundMag_not_nan]

theorem sqrt?_not_nan (a : Num32) : ∀ y ∈ sqrt? a, isNan y = false := by
  unfold sqrt?
  dsimp only
  split_ifs <;> simp_all [pack_roundMag_not_nan]

theorem add?_eq_none (a b : Num32) : add? a b = none ↔
    isNan a = true ∨ isNan b = true ∨ (isInf a = true ∧ isInf b = true ∧ signOf a ≠ signOf b) := by
  unfold add?
  rw [← or_assoc]
  split_ifs <;> simp_all

theorem mul?_eq_none (a b : Num32) : mul? a b = none ↔
    isNan a = true ∨ isNan b = true ∨ (isInf a = true ∧ isZero b = true) ∨ (isZero a = true ∧ isInf b = true) := by
  have ha := inf_not_zero (a := a)
  have hb := inf_not_zero (a := b)
  unfold mul?
  dsimp only
  rw [← or_assoc]
  split_ifs with hnan hinf hzero
  · simp_all
  · rw [Bool.or_eq_true] at hinf hzero
    rcases hinf with h | h <;> simp_all
  · simp_all
  · simp_all

theorem div?_eq_none (a b : Num32) : div? a b = none ↔
    isNan a = true ∨ isNan b = true ∨ (isInf a = true ∧ isInf b = true) ∨ (isZero a = true ∧ isZero b = true) := by
  have ha := inf_not_zero (a := a)
  have hb := inf_not_zero (a := b)
  unfold div?
  dsimp only
  rw [← or_assoc]
  split_ifs <;> simp_all

theorem sqrt?_eq_none (a : Num32) : sqrt? a = none ↔
    isNan a = true ∨ (signOf a = true ∧ isZero a = false) := by
  unfold sqrt?
  dsimp only
  split_ifs <;> simp_all

/-- Settles O55: an operation gives no NaN but where it has no result. -/
theorem invalidOperationsGiveANan : Obligations.InvalidOperationsGiveANan := by
  intro d a b
  refine ⟨?_, ?_, ?_, ?_, ?_⟩
  · exact (isNan_orNan d (add?_not_nan a b)).trans (add?_eq_none a b)
  · have h := (isNan_orNan d (add?_not_nan a (fneg b))).trans (add?_eq_none a (fneg b))
    simpa [fsub, signOf_fneg] using h
  · exact (isNan_orNan d (mul?_not_nan a b)).trans (mul?_eq_none a b)
  · exact (isNan_orNan d (div?_not_nan a b)).trans (div?_eq_none a b)
  · exact (isNan_orNan d (sqrt?_not_nan a)).trans (sqrt?_eq_none a)

/-! ### The helpers (R12) -/

theorem flt_finite {a b : Num32} (ha : finite a = true) (hb : finite b = true) :
    flt a b = true ↔ numValue a < numValue b := by
  simp [flt, finite_not_nan ha, finite_not_nan hb, numValue_lt_iff]

theorem feq_finite {a b : Num32} (ha : finite a = true) (hb : finite b = true) :
    feq a b = true ↔ numValue a = numValue b := by
  simp [feq, finite_not_nan ha, finite_not_nan hb, numValue_eq_iff]

theorem comparisons_nan {a b : Num32} (h : isNan a = true ∨ isNan b = true) : flt a b = false ∧ feq a b = false := by
  rcases h with h | h <;> simp [flt, feq, h]

theorem fsigned_positive {p : Num32} (h : flt posZero p = true) (m : Num32) : fsigned p m = m := if_pos h

theorem fsigned_negative {p : Num32} (h : flt p posZero = true) (m : Num32) : fsigned p m = fneg m := by
  have hpos : flt posZero p = false := by
    rw [flt_negative] at h
    rw [flt_posZero]
    simp_all
  simp [fsigned, hpos, h]

theorem fsigned_zero {p : Num32} (h : isZero p = true) (m : Num32) : fsigned p m = posZero := by
  simp [fsigned, flt_posZero, flt_negative, feq_posZero, h]

theorem fsigned_nan {p : Num32} (h : isNan p = true) (m : Num32) : fsigned p m = p := by
  simp [fsigned, comparisons_nan (.inl h), comparisons_nan (.inr h)]

theorem finite_iff_not (a : Num32) : finite a = true ↔ isNan a = false ∧ isInf a = false :=
  ⟨fun h => ⟨finite_not_nan h, finite_not_inf h⟩, fun ⟨hn, hi⟩ => finite_of_not hn hi⟩

/-- A whole number up to 2^24 is the magnitude of a finite word: its significand is moved up to 24 bits. -/
theorem exists_magUnits_whole {k : Nat} (hk : k ≤ 2 ^ 24) : ∃ m < 0x7F800000, magUnits m = k * 2 ^ 149 := by
  rcases Nat.eq_zero_or_pos k with rfl | hpos
  · exact ⟨0, by decide, by decide⟩
  · have hlog : Nat.log2 k ≤ 24 := by
      rw [← Nat.log2_two_pow (n := 24), Nat.log2_eq_log_two, Nat.log2_eq_log_two]
      exact Nat.log_mono_right hk
    have hlo : 2 ^ Nat.log2 k ≤ k := Nat.log2_self_le (by omega)
    have hhi : k < 2 ^ (Nat.log2 k + 1) := Nat.lt_log2_self
    generalize Nat.log2 k = l at *
    have hmoved : k * 2 ^ (23 - l) ≤ 2 ^ 24 ∧ 2 ^ 23 ≤ k * 2 ^ (23 - l) := by
      by_cases h24 : l = 24
      · subst h24; omega
      · constructor
        · calc k * 2 ^ (23 - l) ≤ 2 ^ (l + 1) * 2 ^ (23 - l) := Nat.mul_le_mul_right _ hhi.le
            _ = 2 ^ 24 := by rw [← pow_add]; congr 1; omega
        · calc 2 ^ 23 = 2 ^ l * 2 ^ (23 - l) := by rw [← pow_add]; congr 1; omega
            _ ≤ k * 2 ^ (23 - l) := Nat.mul_le_mul_right _ hlo
    refine ⟨(149 - (23 - l)) * 2 ^ 23 + k * 2 ^ (23 - l), by omega, ?_⟩
    rw [magUnits_grid _ _ hmoved.1 (.inr hmoved.2), Nat.mul_assoc, ← pow_add]
    congr 2
    omega

theorem numOf_exact {k : Nat} (hk : k ≤ 2 ^ 24) : finite (numOf k) = true ∧ numValue (numOf k) = k := by
  obtain ⟨m, hm, hunits⟩ := exists_magUnits_whole hk
  have hm31 : m < 2 ^ 31 := by omega
  have hnum : numOf k = pack false m := by rw [numOf, ← hunits, roundMag_magUnits hm]
  rw [hnum, finite_iff, magOf_pack _ hm31]
  refine ⟨hm, ?_⟩
  rw [numValue, signedUnits, signOf_pack _ hm31, units_eq, magOf_pack _ hm31, hunits]
  push_cast
  exact mul_div_cancel_right₀ _ (by positivity)

theorem fabs_toNat (a : Num32) : (fabs a).toNat = a.toNat % 2 ^ 31 := by
  have hmag : (fabs a).toNat = magOf a := by rw [toNat_eq, signOf_fabs, magOf_fabs]; simp
  exact hmag

/-- Settles O56, helper by helper; `fmin` and `fmax` are the conditionals by definition. -/
theorem helpersAreExact : Obligations.HelpersAreExact :=
  ⟨fabs_toNat,
    fun a => ⟨signOf_fneg a, magOf_fneg a⟩,
    fun _ _ h => comparisons_nan h,
    fun _ _ ha hb => ⟨flt_finite ha hb, feq_finite ha hb⟩,
    fun _ _ => ⟨rfl, rfl⟩,
    fun _ m => ⟨fun h => fsigned_positive h m, fun h => fsigned_negative h m, fun h => fsigned_zero h m,
      fun h => fsigned_nan h m⟩,
    finite_iff_not,
    fun _ hk => numOf_exact hk⟩

/-! ### The types of the parameters (R6) -/

theorem num_eq_pack (p : PosNum32) : p.num = pack false (p.place.val + 1) := by simp [PosNum32.num, pack]

theorem upper_eq_pack (b : DomainBound) : b.upper = pack false (0x3FC00000 + b.place.val) := by
  simp [DomainBound.upper, pack]

theorem lower_eq_fneg_upper (b : DomainBound) : b.lower = fneg b.upper := by
  have hlt := b.place.isLt
  have hlower : b.lower = pack true (0x3FC00000 + b.place.val) := by simp [DomainBound.lower, pack, ← Nat.add_assoc]
  rw [hlower, upper_eq_pack]
  apply eq_of_sign_mag
  · rw [signOf_fneg, signOf_pack _ (by omega), signOf_pack _ (by omega)]; rfl
  · rw [magOf_fneg, magOf_pack _ (by omega), magOf_pack _ (by omega)]

theorem fneg_fneg (a : Num32) : fneg (fneg a) = a :=
  eq_of_sign_mag (by rw [signOf_fneg, signOf_fneg, Bool.not_not]) (by rw [magOf_fneg, magOf_fneg])

/-- Negation turns the order around. -/
theorem flt_fneg (a b : Num32) : flt (fneg a) (fneg b) = flt b a := by
  simp [flt, signedUnits_fneg, Bool.and_comm]

/-- The numbers, infinities included, that are not below a positive one: the sign is clear and the bits are not below. -/
theorem not_flt_positive {a c : Num32} (ha : isNan a = false) (hc : isNan c = false) (hs : signOf c = false)
    (hz : isZero c = false) : flt a c = false ↔ signOf a = false ∧ magOf c ≤ magOf a := by
  have hpos := units_pos hz
  have hunits : units c ≤ units a ↔ magOf c ≤ magOf a := by
    rw [units_eq, units_eq]
    exact ⟨fun h => not_lt.mp fun hlt => absurd (magUnits_lt hlt) (not_lt.mpr h), magUnits_le⟩
  rw [← hunits]
  cases hsa : signOf a <;> simp [flt, ha, hc, signedUnits, hs, hsa]
  omega

theorem posNum_finite (p : PosNum32) : finite p.num = true := by
  have hlt := p.place.isLt
  rw [finite_iff, num_eq_pack, magOf_pack _ (by omega)]
  omega

theorem posNum_positive (p : PosNum32) : flt posZero p.num = true := by
  have hlt := p.place.isLt
  have hz : isZero p.num = false := by
    rw [← Bool.not_eq_true, isZero_iff, num_eq_pack, magOf_pack _ (by omega)]
    omega
  have hs : signOf p.num = false := by rw [num_eq_pack, signOf_pack _ (by omega)]
  simp [flt_posZero, finite_not_nan (posNum_finite p), hz, hs]

theorem exists_posNum {a : Num32} (hf : finite a = true) (hpos : flt posZero a = true) : ∃ p : PosNum32, p.num = a := by
  obtain ⟨⟨-, hz⟩, hs⟩ : (isNan a = false ∧ isZero a = false) ∧ signOf a = false := by
    simpa [flt_posZero] using hpos
  rw [finite_iff] at hf
  rw [← Bool.not_eq_true, isZero_iff] at hz
  refine ⟨⟨⟨magOf a - 1, by omega⟩⟩, ?_⟩
  rw [num_eq_pack]
  dsimp only
  rw [Nat.sub_add_cancel (by omega), ← hs, pack_magOf]

/-- The upper bounds are the numbers from 1.5 up: the words from 1.5 to the infinity. -/
theorem exists_upper_iff (a : Num32) :
    (∃ b : DomainBound, b.upper = a) ↔ isNan a = false ∧ flt a 0x3FC00000#32 = false := by
  have hclass : isNan a = false → (flt a 0x3FC00000#32 = false ↔ signOf a = false ∧ 0x3FC00000 ≤ magOf a) :=
    fun ha => not_flt_positive ha (by decide) (by decide) (by decide)
  constructor
  · rintro ⟨b, rfl⟩
    have hlt := b.place.isLt
    have hnan : isNan b.upper = false := by
      rw [← Bool.not_eq_true, isNan_iff, upper_eq_pack, magOf_pack _ (by omega)]
      omega
    refine ⟨hnan, (hclass hnan).mpr ?_⟩
    rw [upper_eq_pack, signOf_pack _ (by omega), magOf_pack _ (by omega)]
    exact ⟨rfl, Nat.le_add_right _ _⟩
  · rintro ⟨hnan, hge⟩
    obtain ⟨hs, hmag⟩ := (hclass hnan).mp hge
    rw [← Bool.not_eq_true, isNan_iff] at hnan
    refine ⟨⟨⟨magOf a - 0x3FC00000, by omega⟩⟩, ?_⟩
    rw [upper_eq_pack]
    dsimp only
    rw [Nat.add_sub_of_le hmag, ← hs, pack_magOf]

/-- The lower bounds are the upper ones negated. -/
theorem exists_lower_iff (a : Num32) :
    (∃ b : DomainBound, b.lower = a) ↔ isNan a = false ∧ flt 0xBFC00000#32 a = false := by
  have hbound : fneg 0xBFC00000#32 = 0x3FC00000#32 := by decide
  have hneg : ∀ b : DomainBound, b.lower = a ↔ b.upper = fneg a := fun b => by
    rw [lower_eq_fneg_upper]
    exact ⟨fun h => by rw [← h, fneg_fneg], fun h => by rw [h, fneg_fneg]⟩
  simp only [hneg]
  rw [exists_upper_iff, isNan_fneg, ← hbound, flt_fneg]

/-- Settles O57: each type holds one range of bits 30:0 under one sign. -/
theorem componentValuesArePositive : Obligations.ComponentValuesArePositive :=
  ⟨fun p => ⟨posNum_finite p, posNum_positive p⟩, fun _ => exists_posNum, exists_upper_iff, exists_lower_iff⟩

/-! ### The end of the run (R19) -/

theorem takeCommand_none {s : State} (h : s.cmds = []) : takeCommand s = none := by rw [takeCommand, h]

/-- Settles O8: there is no command to take. -/
theorem stepEndsWithTheCommandList : Obligations.StepEndsWithTheCommandList := by
  intro s h
  rw [step, takeCommand_none h]

end Sys2Proof.Proofs
end

/-! PROOFS. What one step can do to the state of spec 10_state.md, said once: for a block command (`ChannelChange`), for
the body of any command (`BodyEffect`), and for a step (`step_effect`, `step_keeps`). -/

namespace Sys2Proof.Proofs

open Sys2Proof.Machine

/-! ### Fields and channels after an update -/

/-- A register write changes the RW registers of the shell and the coefficients, and no other field (R52, R114). -/
theorem writeReg_others (r : Reg) (w : Word) (s : State) :
    writeReg r w s = { s with
      bypass := (writeReg r w s).bypass, blklen := (writeReg r w s).blklen, chsel := (writeReg r w s).chsel,
      cfgSr := (writeReg r w s).cfgSr, cfgMaxblk := (writeReg r w s).cfgMaxblk, cfgNch := (writeReg r w s).cfgNch,
      cfgOsf := (writeReg r w s).cfgOsf, bq := (writeReg r w s).bq } := by
  unfold writeReg
  split <;> rfl

/-- A channel after one was replaced: its own new value, or as before. -/
theorem chan_setChan_or (s : State) (c : Nat) (ch : Channel) (e : Nat) :
    (s.setChan c ch).chan e = s.chan e ∨ (e = c ∧ (s.setChan c ch).chan e = ch) := by
  by_cases he : e = c
  · by_cases hc : c < 16
    · exact .inr ⟨he, he ▸ chan_setChan_same s c ch hc⟩
    · exact .inl (by rw [setChan_beyond s c ch (Nat.le_of_not_lt hc)])
  · exact .inl (chan_setChan_other s c e ch he)

/-- The other buffer of a channel whose buffer b was replaced. -/
theorem setBuf_buf_other (ch : Channel) {b e : BufSel} (m : Memory) (h : e ≠ b) : (ch.setBuf b m).buf e = ch.buf e := by
  cases b <;> cases e <;> first | rfl | exact absurd rfl h

/-- After `PREPARE` every channel is as after hardware reset: all units are reset, all buffers forgotten (R112). -/
theorem prepareBody_chan (P : Params) (s : State) (c : Nat) : (prepareBody P s).chan c = Channel.reset := by
  have h : (prepareBody P s).chan c
      = forgetBuffers ((resetUnits 0x3F#6 (latchAndDerive P s)).chan c) := forgetAllBuffers_chan _ c
  rw [h, resetUnits_chan]
  rfl

/-! ### The histories of the oversampler beyond and below their lengths (R46, R186) -/

/-- The history cells the block does not have are the same in both (log 10). -/
def SameBeyond (P : Params) (a b : Vector OvsStage 2) : Prop :=
  ∀ (i : Fin 2) k,
    (P.uplen i ≤ k → (b[i]).uph.getD k posZero = (a[i]).uph.getD k posZero) ∧
    (P.hblen i 1 0 ≤ k → (b[i]).dne.getD k posZero = (a[i]).dne.getD k posZero) ∧
    (P.hblen i 1 1 ≤ k → (b[i]).dno.getD k posZero = (a[i]).dno.getD k posZero)

theorem SameBeyond.refl (P : Params) (a : Vector OvsStage 2) : SameBeyond P a a :=
  fun _ _ => ⟨fun _ => rfl, fun _ => rfl, fun _ => rfl⟩

theorem SameBeyond.trans {P : Params} {a b c : Vector OvsStage 2} (h : SameBeyond P a b) (g : SameBeyond P b c) :
    SameBeyond P a c := fun i k =>
  ⟨fun hk => ((g i k).1 hk).trans ((h i k).1 hk), fun hk => ((g i k).2.1 hk).trans ((h i k).2.1 hk),
    fun hk => ((g i k).2.2 hk).trans ((h i k).2.2 hk)⟩

/-- Every cell of a history is finite. -/
def HistoryFinite (h : Vector Num32 32) : Prop := ∀ k : Fin 32, finite h[k] = true

/-- Every cell of one stage is finite. -/
structure StageFinite (st : OvsStage) : Prop where
  uph : HistoryFinite st.uph
  dne : HistoryFinite st.dne
  dno : HistoryFinite st.dno

/-- A push leaves the cells from its length on alone (R186). -/
theorem ovsPush_beyond (h : Vector Num32 32) (x : Num32) {len k : Nat} (hk : len ≤ k) :
    (ovsPush h len x).getD k posZero = h.getD k posZero := by
  rw [vector_getD, vector_getD]
  split
  · rw [ovsPush, Vector.getElem_ofFn, if_pos hk]
    rfl
  · rfl

/-- When the cells a push wrote are finite, so is the whole history, if it was before. -/
theorem ovsPush_finite {h : Vector Num32 32} {len : Nat} {x : Num32} (hh : HistoryFinite h)
    (hw : historyFinite (ovsPush h len x) len = true) : HistoryFinite (ovsPush h len x) := by
  intro k
  have hcell : (ovsPush h len x).getD k posZero = (ovsPush h len x)[k] := by rw [vector_getD, dif_pos k.isLt]; rfl
  by_cases hk : len ≤ k.val
  · rw [← hcell, ovsPush_beyond h x hk, vector_getD, dif_pos k.isLt]
    exact hh k
  · rw [← hcell]
    exact List.all_eq_true.mp hw k.val (List.mem_range.mpr (Nat.lt_of_not_le hk))

/-- What a part of one sample may do to the histories: it leaves the cells beyond the lengths alone, and records in
`written` whatever it writes that is not finite. -/
structure HistoryChange (P : Params) (w w' : OvsWork) : Prop where
  beyond : SameBeyond P w.stages w'.stages
  sticky : w'.written = true → w.written = true
  finite : w'.written = true → (∀ i : Fin 2, StageFinite w.stages[i]) → ∀ i : Fin 2, StageFinite w'.stages[i]

theorem HistoryChange.trans {P : Params} {u v w : OvsWork} (h : HistoryChange P u v) (g : HistoryChange P v w) :
    HistoryChange P u w where
  beyond := h.beyond.trans g.beyond
  sticky hw := h.sticky (g.sticky hw)
  finite hw hu := g.finite hw (h.finite (g.sticky hw) hu)

/-- Replacing one stage: it is enough to look at that stage. -/
theorem HistoryChange.of_set {P : Params} {w : OvsWork} {s : Fin 2} {st : OvsStage} {written : Bool}
    (beyond : ∀ k, (P.uplen s ≤ k → st.uph.getD k posZero = (w.stages[s]).uph.getD k posZero) ∧
      (P.hblen s 1 0 ≤ k → st.dne.getD k posZero = (w.stages[s]).dne.getD k posZero) ∧
      (P.hblen s 1 1 ≤ k → st.dno.getD k posZero = (w.stages[s]).dno.getD k posZero))
    (sticky : written = true → w.written = true)
    (finite : written = true → StageFinite w.stages[s] → StageFinite st) :
    HistoryChange P w { stages := w.stages.set s st, written := written } := by
  have hset : ∀ i : Fin 2, (w.stages.set s st)[i] = if i = s then st else w.stages[i] := fun i => by
    simp [Vector.getElem_set, Fin.ext_iff, eq_comm]
  refine ⟨fun i k => ?_, sticky, fun hw hold i => ?_⟩
  · show _ ∧ _ ∧ _
    simp only [hset]
    split
    · next h => exact h ▸ beyond k
    · exact ⟨fun _ => rfl, fun _ => rfl, fun _ => rfl⟩
  · show StageFinite (w.stages.set s st)[i]
    rw [hset]
    split
    · exact finite hw (hold s)
    · exact hold i

theorem up2_change (P : Params) (d : Draw) (s : Fin 2) (w : OvsWork) (x : Num32) :
    HistoryChange P w (up2 P d s w x).1 := by
  refine .of_set (fun k => ⟨ovsPush_beyond _ _, fun _ => rfl, fun _ => rfl⟩) (fun h => ?_) (fun h hst => ?_)
  · exact (Bool.and_eq_true_iff.mp h).1
  · exact ⟨ovsPush_finite hst.uph (Bool.and_eq_true_iff.mp h).2, hst.dne, hst.dno⟩

theorem down2_change (P : Params) (d : Draw) (s : Fin 2) (w : OvsWork) (ue uo : Num32) :
    HistoryChange P w (down2 P d s w ue uo).1 := by
  refine .of_set (fun k => ⟨fun _ => rfl, ovsPush_beyond _ _, ovsPush_beyond _ _⟩) (fun h => ?_) (fun h hst => ?_)
  · obtain ⟨h, -⟩ := Bool.and_eq_true_iff.mp h
    exact (Bool.and_eq_true_iff.mp h).1
  · obtain ⟨h, hodd⟩ := Bool.and_eq_true_iff.mp h
    obtain ⟨-, heven⟩ := Bool.and_eq_true_iff.mp h
    exact ⟨hst.uph, ovsPush_finite hst.dne heven, ovsPush_finite hst.dno hodd⟩

/-- One stage for factor 2; for factor 4 the second stage runs on both outputs of the first (R190). -/
theorem upSample_change (P : Params) (osf : BitVec 3) (d : Draw) (w : OvsWork) (x : Num32) :
    HistoryChange P w (upSample P osf d w x).1 := by
  unfold upSample
  split
  · exact up2_change P (0 :: d) 0 w x
  · exact (up2_change P (0 :: d) 0 w x).trans ((up2_change P (1 :: d) 1 _ _).trans (up2_change P (2 :: d) 1 _ _))

/-- One stage for factor 2; for factor 4 the second stage runs twice before the first (R190). -/
theorem downSample_change (P : Params) (osf : BitVec 3) (d : Draw) (w : OvsWork) (vs : List Num32) :
    HistoryChange P w (downSample P osf d w vs).1 := by
  unfold downSample
  split
  · exact down2_change P (0 :: d) 0 w _ _
  · exact (down2_change P (1 :: d) 1 w _ _).trans
      ((down2_change P (2 :: d) 1 _ _ _).trans (down2_change P (0 :: d) 0 _ _ _))

/-! ### What a block command does to its channel and to `NF` (R84, R121) -/

/-- Everything the invariants need of the work of a block command from the state s: the buffers keep their form and stay
as they are from `LEN(b)` on; the cells the block does not have are untouched; `NF` is never cleared and records what
is not finite. -/
structure ChannelChange (P : Params) (s : State) (w w' : Work) : Prop where
  canonical : ∀ b, Memory.wf (w.ch.buf b) = true → Memory.wf (w'.ch.buf b) = true
  bounds : ∀ b k, lenOf s b ≤ k → memGet (w'.ch.buf b) k = memGet (w.ch.buf b) k
  sections : ∀ j, P.nsec ≤ j → w'.ch.bs.getD j BiquadState.reset = w.ch.bs.getD j BiquadState.reset
  histories : SameBeyond P w.ch.ovs w'.ch.ovs
  sticky : w.nf = true → w'.nf = true
  finite : w'.nf = false → CellsFinite w.ch → CellsFinite w'.ch

section

variable {P : Params} {s : State}

theorem ChannelChange.refl (w : Work) : ChannelChange P s w w :=
  ⟨fun _ h => h, fun _ _ _ => rfl, fun _ _ => rfl, .refl P _, fun h => h, fun _ h => h⟩

theorem ChannelChange.trans {u v w : Work} (h : ChannelChange P s u v) (g : ChannelChange P s v w) :
    ChannelChange P s u w where
  canonical b hu := g.canonical b (h.canonical b hu)
  bounds b k hk := (g.bounds b k hk).trans (h.bounds b k hk)
  sections j hj := (g.sections j hj).trans (h.sections j hj)
  histories := h.histories.trans g.histories
  sticky hu := g.sticky (h.sticky hu)
  finite hw hu := by
    have hv : v.nf = false := Bool.eq_false_iff.mpr fun hv => by simp [g.sticky hv] at hw
    exact g.finite hw (h.finite hv hu)

/-- A loop of turns is such a change when every turn is. -/
theorem ChannelChange.of_loop {g : Work → Nat → Work} {n : Nat}
    (h : ∀ i, i < n → ∀ w, ChannelChange P s w (g w i)) (w : Work) :
    ChannelChange P s w ((List.range n).foldl g w) := by
  induction n with
  | zero => exact .refl w
  | succ n ih =>
    rw [foldl_range_succ]
    exact (ih fun i hi => h i (Nat.lt_succ_of_lt hi)).trans (h n (Nat.lt_succ_self n) _)

/-- `CellsFinite` looks at no buffer. -/
theorem cellsFinite_setBuf (ch : Channel) (b : BufSel) (m : Memory) : CellsFinite (ch.setBuf b m) ↔ CellsFinite ch := by
  simp [CellsFinite]

/-- Writing a run of cells below `LEN(b)` is such a change; `NF` may be set with it. -/
theorem ChannelChange.of_memSetFrom (w : Work) {b : BufSel} {start : Nat} {vs : List Num32} {nf : Bool}
    (hlen : start + vs.length ≤ lenOf s b) (hnf : w.nf = true → nf = true) :
    ChannelChange P s w ⟨w.ch.setBuf b (memSetFrom (w.ch.buf b) start vs), nf⟩ where
  canonical e h := by
    by_cases he : e = b
    · subst he
      rw [setBuf_buf_same]
      exact memSetFrom_wf vs _ _ h
    · rwa [setBuf_buf_other _ _ he]
  bounds e k hk := by
    by_cases he : e = b
    · subst he
      rw [setBuf_buf_same, memGet_memSetFrom, if_neg (by omega)]
    · rw [setBuf_buf_other _ _ he]
  sections j _ := by rw [setBuf_bs]
  histories := by rw [setBuf_ovs]; exact .refl P _
  sticky := hnf
  finite _ h := (cellsFinite_setBuf _ _ _).mpr h

/-- New histories, when `NF` records what the sample wrote there. -/
theorem ChannelChange.of_stages (w : Work) {r : OvsWork} {nf : Bool} (h : HistoryChange P ⟨w.ch.ovs, true⟩ r)
    (hsticky : w.nf = true → nf = true) (hwritten : nf = false → r.written = true) :
    ChannelChange P s w ⟨{ w.ch with ovs := r.stages }, nf⟩ where
  canonical b hb := by cases b <;> exact hb
  bounds b _ _ := by cases b <;> rfl
  sections _ _ := rfl
  histories := h.beyond
  sticky := hsticky
  finite hnf hcells := by
    obtain ⟨hdsV, hts, hovs, hbs⟩ := hcells
    have hnew := h.finite (hwritten hnf) fun i =>
      ⟨fun k => (hovs i k).1, fun k => (hovs i k).2.1, fun k => (hovs i k).2.2⟩
    exact ⟨hdsV, hts, fun i k => ⟨(hnew i).uph k, (hnew i).dne k, (hnew i).dno k⟩, hbs⟩

/-- A turn of `OVS.UP` writes `ACT_OSF` cells from `ACT_OSF * i` on (R191). -/
theorem upStep_change {i : Nat} (hi : i < s.blklen.toNat) (d : Draw) (w : Work) :
    ChannelChange P s w (upStep P s.actOsf d w i) := by
  have hstages := upSample_change P s.actOsf (i :: d) ⟨w.ch.ovs, true⟩ (w.ch.read d .lo i)
  refine (ChannelChange.of_stages w hstages (nf := (upStep P s.actOsf d w i).nf) ?_ ?_).trans
    (.of_memSetFrom _ (b := .hi) (start := s.actOsf.toNat * i) ?_ id)
  · intro h
    simp [upStep, h]
  · intro h
    simp only [upStep, Bool.or_eq_false_iff, Bool.not_eq_false', Bool.and_eq_true] at h
    exact h.2.1
  · have hroom : s.actOsf.toNat * (i + 1) ≤ s.actOsf.toNat * s.blklen.toNat := Nat.mul_le_mul_left _ hi
    rw [Nat.mul_succ] at hroom
    rw [List.length_take, lenOf, Nat.mul_comm s.blklen.toNat]
    omega

/-- A turn of `OVS.DOWN` writes cell i (R192). -/
theorem downStep_change {i : Nat} (hi : i < s.blklen.toNat) (d : Draw) (w : Work) :
    ChannelChange P s w (downStep P s.actOsf d w i) := by
  have hstages := downSample_change P s.actOsf (i :: d) ⟨w.ch.ovs, true⟩
    ((List.range s.actOsf.toNat).map fun j => w.ch.read d .hi (s.actOsf.toNat * i + j))
  refine (ChannelChange.of_stages w hstages (nf := (downStep P s.actOsf d w i).nf) ?_ ?_).trans
    (.of_memSetFrom _ (b := .lo) (start := i) (vs := [(downSample P s.actOsf (i :: d) ⟨w.ch.ovs, true⟩
      ((List.range s.actOsf.toNat).map fun j => w.ch.read d .hi (s.actOsf.toNat * i + j))).2]) hi id)
  · intro h
    simp [downStep, h]
  · intro h
    simp only [downStep, Bool.or_eq_false_iff, Bool.not_eq_false', Bool.and_eq_true] at h
    exact h.2.1

/-- What the sample function of a `*.RUN` command may do to the channel (R83, R121). -/
structure SampleKeeps (P : Params) (f : Draw → Channel → Num32 → Sampled) : Prop where
  buffers : KeepsBuffers f
  sections : ∀ d ch x j, P.nsec ≤ j → (f d ch x).ch.bs.getD j BiquadState.reset = ch.bs.getD j BiquadState.reset
  histories : ∀ d ch x, (f d ch x).ch.ovs = ch.ovs
  finite : ∀ d ch x, (f d ch x).stateFinite = true → CellsFinite ch → CellsFinite (f d ch x).ch

theorem lwsSample_sampleKeeps : SampleKeeps P (lwsSample P) :=
  ⟨lwsSample_keeps P, fun _ _ _ _ _ => rfl, fun _ _ _ => rfl, fun _ _ _ _ h => h⟩

theorem oacSample_sampleKeeps (k : OacConsts) (v : OacVariant) : SampleKeeps P (oacSample P k v) :=
  ⟨oacSample_keeps P k v, fun _ _ _ _ _ => rfl, fun _ _ _ => rfl, fun _ _ _ _ h => h⟩

theorem dwsSample_sampleKeeps (k : DwsConsts) : SampleKeeps P (dwsSample P k) :=
  ⟨dwsSample_keeps P k, fun _ _ _ _ _ => rfl, fun _ _ _ => rfl, fun _ _ _ hy h => ⟨hy, h.2⟩⟩

theorem triSample_sampleKeeps (k : TriConsts) : SampleKeeps P (triSample P k) :=
  ⟨triSample_keeps P k, fun _ _ _ _ _ => rfl, fun _ _ _ => rfl, fun _ _ _ ht h => ⟨h.1, ht, h.2.2⟩⟩

/-- A section's state is written at its own place, and recorded when it is not finite. -/
theorem sectionStep_finite {bq : Vector Biquad 16} {d : Draw} {r : Sampled} {j : Nat}
    (h : (sectionStep bq d r j).stateFinite = true) :
    r.stateFinite = true ∧ (CellsFinite r.ch → CellsFinite (sectionStep bq d r j).ch) := by
  obtain ⟨hr, hnew⟩ := Bool.and_eq_true_iff.mp h
  refine ⟨hr, fun ⟨hdsV, hts, hovs, hbs⟩ => ⟨hdsV, hts, hovs, fun i => ?_⟩⟩
  simp only [sectionStep, Fin.getElem_fin, Vector.getElem_setIfInBounds]
  split
  · exact hnew
  · exact hbs i

/-- A run of sections below `NSEC` leaves those from `NSEC` on alone. -/
theorem sections_beyond {bq : Vector Biquad 16} {d : Draw} {n k : Nat} (hk : n ≤ k) (js : List Nat)
    (hjs : ∀ j ∈ js, j < n) : ∀ r : Sampled,
    (js.foldl (sectionStep bq d) r).ch.bs.getD k BiquadState.reset = r.ch.bs.getD k BiquadState.reset := by
  induction js with
  | nil => exact fun _ => rfl
  | cons j js ih =>
    intro r
    have hj : j < n := hjs j List.mem_cons_self
    rw [List.foldl_cons, ih fun i hi => hjs i (List.mem_cons_of_mem _ hi)]
    simp only [sectionStep, vector_getD, Vector.getElem_setIfInBounds, if_neg (Nat.ne_of_lt (Nat.lt_of_lt_of_le hj hk))]

theorem sections_finite {bq : Vector Biquad 16} {d : Draw} (js : List Nat) : ∀ r : Sampled,
    (js.foldl (sectionStep bq d) r).stateFinite = true →
      r.stateFinite = true ∧ (CellsFinite r.ch → CellsFinite (js.foldl (sectionStep bq d) r).ch) := by
  induction js with
  | nil => exact fun _ h => ⟨h, id⟩
  | cons j js ih =>
    intro r h
    obtain ⟨hstep, hrest⟩ := ih _ h
    obtain ⟨hr, hfirst⟩ := sectionStep_finite hstep
    exact ⟨hr, fun hc => hrest (hfirst hc)⟩

theorem bqcSample_sampleKeeps (bq : Vector Biquad 16) {f l : Nat} (hl : l < P.nsec) :
    SampleKeeps P (bqcSample bq f l) where
  buffers := bqcSample_keeps bq f l
  sections d ch x j hj := by
    refine sections_beyond hj (sectionRange f l) (fun i hi => ?_) ⟨ch, x, true⟩
    simp only [sectionRange, List.mem_map, List.mem_range] at hi
    obtain ⟨n, hn, rfl⟩ := hi
    omega
  histories d ch x := by
    have h := congrArg Channel.ovs (sections_others bq d (sectionRange f l) ⟨ch, x, true⟩)
    exact h
  finite d ch x h := (sections_finite (sectionRange f l) ⟨ch, x, true⟩ h).2

/-- A turn of a `*.RUN` loop writes cell i (R121). -/
theorem sampleStep_change {f : Draw → Channel → Num32 → Sampled} (hf : SampleKeeps P f) {b : BufSel} {i : Nat}
    (hi : i < lenOf s b) (d : Draw) (w : Work) : ChannelChange P s w (sampleStep b f d w i) := by
  have hnext : ChannelChange P s w
      ⟨(f (i :: d) w.ch (w.ch.read d b i)).ch, (sampleStep b f d w i).nf⟩ :=
    { canonical := fun e he => by rwa [hf.buffers.buf]
      bounds := fun e k _ => by rw [hf.buffers.buf]
      sections := hf.sections _ _ _
      histories := by rw [hf.histories]; exact .refl P _
      sticky := fun h => by simp [sampleStep, h]
      finite := fun h => by
        simp only [sampleStep, Bool.or_eq_false_iff, Bool.not_eq_false', Bool.and_eq_true] at h
        exact hf.finite _ _ _ h.2.2 }
  exact hnext.trans (.of_memSetFrom _ (b := b) (start := i)
    (vs := [(f (i :: d) w.ch (w.ch.read d b i)).y]) hi id)

end

/-! ### What the body of a command does (R110) -/

/-- The state a block command on channel c leaves: its work, and n words of `din` gone. -/
def afterWork (c n : Nat) (w : Work) (s : State) : State := dropDin n { s.setChan c w.ch with nf := w.nf }

/-- A channel after that work: the worked-on one, or as before. -/
theorem afterWork_chan_or (c n : Nat) (w : Work) (s : State) (e : Nat) :
    (afterWork c n w s).chan e = s.chan e ∨ (e = c ∧ (afterWork c n w s).chan e = w.ch) :=
  chan_setChan_or s c w.ch e

/-- What the body of a command whose checks passed does to the state: it pushes words (none, for `NOP`), prepares,
resets units, writes the register at an address, or works on one configured channel. -/
inductive BodyEffect (P : Params) (s : State) : Instr → State → Prop
  | pushes (i : Instr) (ws : List Word) : BodyEffect P s i (pushDout ws s)
  | prepares : ConfigAccepted P s → BodyEffect P s .prepare (prepareBody P s)
  | resets (i : Instr) (m : BitVec 6) : s.prepared = true → BodyEffect P s i (resetUnits m s)
  | writes (i : Instr) (a : BitVec 16) (r : Reg) (w : Word) : regAt P a = some r →
      BodyEffect P s i (writeReg r w (dropDin 1 s))
  | works (i : Instr) (c n : Nat) (w : Work) : blockCheck s c = none → ChannelChange P s ⟨s.chan c, s.nf⟩ w →
      BodyEffect P s i (afterWork c n w s)

section

variable {P : Params} {s : State}

/-- A body that changes nothing at all. -/
theorem BodyEffect.idle (i : Instr) : BodyEffect P s i s := by
  have h : BodyEffect P s i (pushDout [] s) := .pushes i []
  rwa [pushDout, List.append_nil] at h

/-- The body of a processing command, bypassed or not. -/
theorem BodyEffect.of_processChannel (i : Instr) (u : UnitId) {c : Nat} {job : Draw → Work → Work}
    (hc : blockCheck s c = none) (hjob : ∀ d w, ChannelChange P s w (job d w)) :
    BodyEffect P s i (processChannel u c job s) := by
  unfold processChannel
  split
  · exact .idle i
  · exact .works i c 0 _ hc (hjob _ _)

theorem BodyEffect.of_runUnit (i : Instr) (u : UnitId) {c : Nat} (b : BufSel) {f : Draw → Channel → Num32 → Sampled}
    (hc : blockCheck s c = none) (hf : SampleKeeps P f) : BodyEffect P s i (runUnit u c b f s) :=
  .of_processChannel i u hc fun d w => .of_loop (fun _ hi v => sampleStep_change hf hi d v) w

theorem BodyEffect.of_ldblk (i : Instr) {c : Nat} (b : BufSel) (hc : blockCheck s c = none) :
    BodyEffect P s i (ldblkBody c b s) :=
  .works i c (lenOf s b) _ hc (.of_memSetFrom (b := b) (start := 0) (vs := dinWords s (lenOf s b))
    ⟨s.chan c, s.nf⟩ (by rw [dinWords, List.length_take]; omega) id)

theorem BodyEffect.of_wreg (i : Instr) (a : BitVec 16) : BodyEffect P s i (wregBody P a s) := by
  unfold wregBody
  split
  · next r w _ hr _ => exact .writes i a r w hr
  · exact .idle i

theorem BodyEffect.of_rreg (i : Instr) (a : BitVec 16) : BodyEffect P s i (rregBody P a s) := by
  unfold rregBody
  split
  · exact .pushes i _
  · exact .idle i

end

/-- Passing the check of `PREPARE` is what R112 says it is. -/
theorem validConfig_iff (P : Params) (s : State) : validConfig P s = true ↔ ConfigAccepted P s := by
  simp only [validConfig, Bool.and_eq_true, Bool.or_eq_true, decide_eq_true_eq, beq_iff_eq]
  constructor
  · rintro ⟨⟨⟨⟨⟨⟨hfin, hpos⟩, hblk⟩, hblk'⟩, hnch⟩, hnch'⟩, hosf⟩
    exact ⟨hfin, hpos, hblk, hblk', hnch, hnch', hosf⟩
  · rintro ⟨hfin, hpos, hblk, hblk', hnch, hnch', hosf⟩
    exact ⟨⟨⟨⟨⟨⟨hfin, hpos⟩, hblk⟩, hblk'⟩, hnch⟩, hnch'⟩, hosf⟩

theorem configCheck_none (P : Params) (s : State) : configCheck P s = none ↔ ConfigAccepted P s := by
  rw [← validConfig_iff, configCheck]
  split <;> simp_all

theorem preparedCheck_none (s : State) : preparedCheck s = none ↔ s.prepared = true := by
  unfold preparedCheck
  split <;> simp_all

/-- The body of every command whose checks pass has one of these effects. -/
theorem bodyOf_effect {P : Params} {i : Instr} {s : State} (h : firstFailing (checksOf P s i) = none) :
    BodyEffect P s i (bodyOf P s i s) := by
  cases i with
  | nop => exact .idle _
  | prepare =>
    rw [configChecks_firstFailing, configCheck_none] at h
    exact .prepares h
  | reset m =>
    rw [preparedChecks_firstFailing, preparedCheck_none] at h
    exact .resets _ m h
  | wreg a => exact .of_wreg _ a
  | rreg a => exact .of_rreg _ a
  | ldblk c b => exact .of_ldblk _ b (blockChecks_firstFailing s c ▸ h)
  | stblk c b => exact .pushes _ (storedWords c b s)
  | lwsRun c b => exact .of_runUnit _ .lws b (blockChecks_firstFailing s c ▸ h) lwsSample_sampleKeeps
  | dwsRun c => exact .of_runUnit _ .dws .hi (blockChecks_firstFailing s c ▸ h) (dwsSample_sampleKeeps s.dk)
  | oacRun c b v => exact .of_runUnit _ .oac b (blockChecks_firstFailing s c ▸ h) (oacSample_sampleKeeps s.ok v)
  | triRun c => exact .of_runUnit _ .tri .hi (blockChecks_firstFailing s c ▸ h) (triSample_sampleKeeps s.tk)
  | ovsUp c =>
    exact .of_processChannel _ .ovs (blockChecks_firstFailing s c ▸ h) fun d w =>
      .of_loop (fun _ hi v => upStep_change hi d v) w
  | ovsDown c =>
    exact .of_processChannel _ .ovs (blockChecks_firstFailing s c ▸ h) fun d w =>
      .of_loop (fun _ hi v => downStep_change hi d v) w
  | bqcRun c b f l =>
    rw [checksOf, sectionChecks_firstFailing, sectionCheck_none] at h
    obtain ⟨hc, -, hl⟩ := h
    exact .of_runUnit _ .bqc b hc (bqcSample_sampleKeeps s.bq hl)

/-! ### What a step does (R110, R212, R214) -/

/-- What a command word does before it is counted: it is discarded, it records a fault, or its body runs. -/
inductive Effect (s : State) : State → Prop
  | discarded : Effect s s
  | faults (code : FaultCode) : s.faulted = false → Effect s (raiseFault code s)
  | runs {i : Instr} {t : State} : BodyEffect Config.params s i t → Effect s t

/-- A step takes a word, has one of these effects, and counts the word. -/
theorem step_effect {s t : State} (h : step s = .next t) :
    ∃ w rest u, s.cmds = w :: rest ∧ Effect { s with cmds := rest } u ∧ t = advance u := by
  obtain ⟨w, rest, hcmds, ⟨i, -, hexec⟩ | ⟨e, -, hill⟩⟩ := step_next h
  · rcases exec_next hexec with ⟨-, ht⟩ | ⟨hf, code, -, ht⟩ | ⟨hchecks, -, -, ht⟩
    · exact ⟨w, rest, _, hcmds, .discarded, ht⟩
    · exact ⟨w, rest, _, hcmds, .faults code hf, ht⟩
    · exact ⟨w, rest, _, hcmds, .runs (bodyOf_effect hchecks), ht⟩
  · rcases command_next hill with ⟨-, ht⟩ | ⟨hf, code, -, ht⟩ | ⟨-, hnone, -, -⟩
    · exact ⟨w, rest, _, hcmds, .discarded, ht⟩
    · exact ⟨w, rest, _, hcmds, .faults code hf, ht⟩
    · cases hnone

/-- An invariant that counting a word, recording a fault and every body keep is kept by every step. -/
theorem step_keeps {I : State → Prop} (hcmds : ∀ s ws, I s → I { s with cmds := ws })
    (hadvance : ∀ s, I s → I (advance s)) (hfault : ∀ code s, s.faulted = false → I s → I (raiseFault code s))
    (hbody : ∀ i s t, BodyEffect Config.params s i t → I s → I t) {s t : State} (hstep : step s = .next t) (h : I s) :
    I t := by
  obtain ⟨w, rest, u, -, he, rfl⟩ := step_effect hstep
  have hrest := hcmds s rest h
  refine hadvance u ?_
  cases he with
  | discarded => exact hrest
  | faults code hf => exact hfault code _ hf hrest
  | runs hb => exact hbody _ _ _ hb hrest

end Sys2Proof.Proofs

/-! PROOFS. The invariants of the state, each from what a body does (`BodyEffect`). -/

namespace Sys2Proof.Proofs

open Sys2Proof.Machine

/-! ### The record of the first fault, the counter and the command port (R23, R24, R26) -/

/-- A body writes neither the record of a fault nor `CC` nor the command port. -/
theorem BodyEffect.record {P : Params} {i : Instr} {s t : State} (h : BodyEffect P s i t) :
    t.faulted = s.faulted ∧ t.fault = s.fault ∧ t.faultCc = s.faultCc ∧ t.cc = s.cc ∧ t.cmds = s.cmds := by
  cases h with
  | pushes | prepares | resets | works => exact ⟨rfl, rfl, rfl, rfl, rfl⟩
  | writes _ a r w => rw [writeReg_others]; exact ⟨rfl, rfl, rfl, rfl, rfl⟩

/-! ### The configuration in force and the derived constants (R34, R250) -/

/-- What `PREPARE` alone writes is the same in both states. -/
structure SameConstants (s t : State) : Prop where
  prepared : t.prepared = s.prepared
  actSr : t.actSr = s.actSr
  actMaxblk : t.actMaxblk = s.actMaxblk
  actNch : t.actNch = s.actNch
  actOsf : t.actOsf = s.actOsf
  fsProc : t.fsProc = s.fsProc
  dk : t.dk = s.dk
  ok : t.ok = s.ok
  tk : t.tk = s.tk

theorem SameConstants.of_writeReg (r : Reg) (w : Word) (s : State) : SameConstants s (writeReg r w (dropDin 1 s)) := by
  rw [writeReg_others]
  exact ⟨rfl, rfl, rfl, rfl, rfl, rfl, rfl, rfl, rfl⟩

/-- `NF` and the channels after a register write. -/
theorem writeReg_nf (r : Reg) (w : Word) (s : State) : (writeReg r w s).nf = s.nf := by rw [writeReg_others]

theorem writeReg_chans (r : Reg) (w : Word) (s : State) : (writeReg r w s).chans = s.chans := by rw [writeReg_others]

theorem writeReg_chan (r : Reg) (w : Word) (s : State) (c : Nat) : (writeReg r w s).chan c = s.chan c :=
  chan_eq_of_chans (writeReg_chans r w s) c

theorem BodyEffect.constants {P : Params} {i : Instr} {s t : State} (hi : i ≠ .prepare) (h : BodyEffect P s i t) :
    SameConstants s t := by
  cases h with
  | prepares => exact absurd rfl hi
  | writes _ a r w => exact .of_writeReg r w s
  | pushes | resets | works => exact ⟨rfl, rfl, rfl, rfl, rfl, rfl, rfl, rfl, rfl⟩

/-- Settles O19: of the effects a body can have, only that of `PREPARE` writes them. -/
theorem onlyPrepareChangesTheConstants : Obligations.OnlyPrepareChangesTheConstants := by
  intro i s t hi h
  rcases exec_next h with ⟨-, rfl⟩ | ⟨-, code, -, rfl⟩ | ⟨hchecks, -, -, rfl⟩
  · exact ⟨rfl, rfl, rfl, rfl, rfl, rfl, rfl, rfl, rfl⟩
  · exact ⟨rfl, rfl, rfl, rfl, rfl, rfl, rfl, rfl, rfl⟩
  · obtain ⟨hprepared, hsr, hmaxblk, hnch, hosf, hfs, hdk, hok, htk⟩ := (bodyOf_effect hchecks).constants hi
    exact ⟨hprepared, hsr, hmaxblk, hnch, hosf, hfs, hdk, hok, htk⟩

/-! ### Sticky bits and the counter (R22 to R26) -/

/-- t has the bits that are set in s, and the record of the fault if s has one. -/
structure KeepsSticky (s t : State) : Prop where
  prepared : s.prepared = true → t.prepared = true
  nf : s.nf = true → t.nf = true
  record : s.faulted = true → t.faulted = true ∧ t.fault = s.fault ∧ t.faultCc = s.faultCc

theorem BodyEffect.prepared {P : Params} {i : Instr} {s t : State} (h : BodyEffect P s i t) (hp : s.prepared = true) :
    t.prepared = true := by
  by_cases hi : i = .prepare
  · subst hi
    cases h with
    | prepares => rfl
    | writes _ a r w => rw [(SameConstants.of_writeReg r w s).prepared, hp]
    | pushes | resets | works => exact hp
  · rw [(h.constants hi).prepared, hp]

theorem BodyEffect.nf {P : Params} {i : Instr} {s t : State} (h : BodyEffect P s i t) (hn : s.nf = true) :
    t.nf = true := by
  cases h with
  | pushes | resets => exact hn
  | prepares => exact Bool.or_eq_true_iff.mpr (.inl hn)
  | writes _ a r w => rw [writeReg_nf]; exact hn
  | works _ c n w hc hw => exact hw.sticky hn

/-- Settles O12: a fault is recorded only where none is, and no body clears a bit. -/
theorem stickyBitsAreNeverCleared : Obligations.StickyBitsAreNeverCleared := by
  intro s t hstep
  have hkeeps : KeepsSticky s t := by
    refine step_keeps (I := KeepsSticky s) (fun _ _ h => ?_) (fun _ h => ?_) (fun code u hf h => ?_)
      (fun i u v hb h => ?_) hstep ⟨id, id, fun hf => ⟨hf, rfl, rfl⟩⟩
    · exact ⟨h.prepared, h.nf, h.record⟩
    · exact ⟨h.prepared, h.nf, h.record⟩
    · exact ⟨h.prepared, h.nf, fun hs => by simp [(h.record hs).1] at hf⟩
    · obtain ⟨hfaulted, hfault, hfaultCc, -⟩ := hb.record
      refine ⟨fun hs => hb.prepared (h.prepared hs), fun hs => hb.nf (h.nf hs), fun hs => ?_⟩
      rw [hfaulted, hfault, hfaultCc]
      exact h.record hs
  exact ⟨hkeeps.prepared, hkeeps.nf, hkeeps.record⟩

/-- A step counts one word and takes one from the command port (R26, R110). -/
theorem step_counts {s t : State} (h : step s = .next t) : t.cc = s.cc + 1 ∧ ∃ w, s.cmds = w :: t.cmds := by
  obtain ⟨w, rest, u, hcmds, he, rfl⟩ := step_effect h
  have hu : u.cc = s.cc ∧ u.cmds = rest := by
    cases he with
    | discarded | faults => exact ⟨rfl, rfl⟩
    | runs hb => exact hb.record.2.2.2
  obtain ⟨hcc, hrest⟩ := hu
  exact ⟨by rw [advance_cc, hcc], w, by rw [advance_cmds, hrest, hcmds]⟩

/-- Settles O13, by induction on the number of steps. -/
theorem commandCounterCountsEveryWord : Obligations.CommandCounterCountsEveryWord := by
  intro k
  induction k with
  | zero =>
    intro s t h
    cases h
    exact ⟨(BitVec.add_zero s.cc).symm, rfl, Nat.zero_le _⟩
  | succ k ih =>
    intro s t h
    obtain ⟨u, hstep, hrun⟩ := run_succ_next Sys2Proof.core h
    obtain ⟨hcc, w, hcmds⟩ := step_counts hstep
    obtain ⟨hcc', hcmds', hlen⟩ := ih u t hrun
    refine ⟨?_, by rw [hcmds', hcmds, List.drop_succ_cons], by rw [hcmds, List.length_cons]; omega⟩
    rw [hcc', hcc, Nat.add_comm k 1, BitVec.ofNat_add, BitVec.add_assoc]
    rfl

/-! ### The sample memories (R49, R72, R231) -/

/-- The sample memories of one channel are in canonical form and inside the bounds the configuration in force sets. -/
def ChannelInForm (s : State) (c : Nat) (ch : Channel) : Prop :=
  (∀ b, Memory.wf (ch.buf b) = true) ∧
  ∀ i v,
    (memGet ch.bufLo i = some v → c < s.actNch.toNat ∧ i < s.actMaxblk.toNat) ∧
    (memGet ch.bufHi i = some v → c < s.actNch.toNat ∧ i < s.actMaxblk.toNat * s.actOsf.toNat)

theorem channelsInForm_iff (s : State) :
    (∀ c, ChannelInForm s c (s.chan c)) ↔ BuffersCanonical s ∧ BuffersInBounds s := by
  constructor
  · exact fun h => ⟨fun c => ⟨(h c).1 .lo, (h c).1 .hi⟩, fun c => (h c).2⟩
  · rintro ⟨hwf, hbounds⟩ c
    exact ⟨fun b => by cases b <;> [exact (hwf c).1; exact (hwf c).2], hbounds c⟩

theorem channelInForm_reset (s : State) (c : Nat) : ChannelInForm s c Channel.reset :=
  ⟨fun b => by cases b <;> rfl, fun _ _ => ⟨nofun, nofun⟩⟩

/-- Being in form depends on the configuration in force alone. -/
theorem ChannelInForm.congr {s t : State} {c : Nat} {ch : Channel} (h : ChannelInForm s c ch)
    (hst : SameConstants s t) : ChannelInForm t c ch := by
  rw [ChannelInForm, hst.actNch, hst.actMaxblk, hst.actOsf]
  exact h

/-- What a block command leaves in its channel is in form: below `LEN(b)` every cell is in bounds, since `BLKLEN` is at
most `ACT_MAXBLK` and the channel is configured (R121). -/
theorem ChannelChange.inForm {P : Params} {s : State} {c : Nat} {w w' : Work} (hc : blockCheck s c = none)
    (h : ChannelChange P s w w') (hw : ChannelInForm s c w.ch) : ChannelInForm s c w'.ch := by
  obtain ⟨-, hchannel, hlength⟩ := (blockCheck_none s c).mp hc
  obtain ⟨hwf, hbounds⟩ := hw
  refine ⟨fun b => h.canonical b (hwf b), fun i v => ⟨fun hv => ?_, fun hv => ?_⟩⟩
  · by_cases hi : i < s.blklen.toNat
    · exact ⟨hchannel, by omega⟩
    · exact (hbounds i v).1 (h.bounds .lo i (Nat.le_of_not_lt hi) ▸ hv)
  · by_cases hi : i < s.blklen.toNat * s.actOsf.toNat
    · exact ⟨hchannel, Nat.lt_of_lt_of_le hi (Nat.mul_le_mul_right _ hlength)⟩
    · exact (hbounds i v).2 (h.bounds .hi i (Nat.le_of_not_lt hi) ▸ hv)

theorem BodyEffect.inForm {P : Params} {i : Instr} {s t : State} (h : BodyEffect P s i t)
    (hs : ∀ c, ChannelInForm s c (s.chan c)) (c : Nat) : ChannelInForm t c (t.chan c) := by
  cases h with
  | pushes => exact hs c
  | prepares => rw [prepareBody_chan]; exact channelInForm_reset _ c
  | resets _ m =>
    rw [resetUnits_chan]
    exact hs c
  | writes _ a r w =>
    rw [writeReg_chan]
    exact (hs c).congr (.of_writeReg r w s)
  | works _ e n w he hw =>
    rcases afterWork_chan_or e n w s c with hc | ⟨rfl, hc⟩
    · rw [hc]; exact hs c
    · rw [hc]
      show ChannelInForm s c w.ch
      exact hw.inForm he (hs c)

/-- Settles O47: a block command writes only below `LEN(b)`, `PREPARE` forgets every cell, nothing else writes one. -/
theorem stepKeepsTheBuffersInForm : Obligations.StepKeepsTheBuffersInForm := by
  intro s t hwf hbounds hstep
  rw [← channelsInForm_iff]
  exact step_keeps (I := fun s => ∀ c, ChannelInForm s c (s.chan c)) (fun _ _ h => h) (fun _ h => h)
    (fun _ _ _ h => h) (fun _ _ _ hb h => hb.inForm h) hstep ((channelsInForm_iff s).mpr ⟨hwf, hbounds⟩)

/-! ### The cells a block does not have (R45, R47, R48, R54) -/

/-- The section state and the histories of a channel are as after reset where the block has none (log 10). -/
structure BeyondIsReset (P : Params) (ch : Channel) : Prop where
  sections : ∀ j, P.nsec ≤ j → ch.bs.getD j BiquadState.reset = BiquadState.reset
  histories : SameBeyond P Channel.reset.ovs ch.ovs

/-- A cell of the histories after reset. -/
theorem reset_history (i : Fin 2) (k : Nat) :
    ((Channel.reset.ovs[i]).uph.getD k posZero = posZero) ∧ ((Channel.reset.ovs[i]).dne.getD k posZero = posZero) ∧
      ((Channel.reset.ovs[i]).dno.getD k posZero = posZero) := by
  simp [vector_getD, Channel.reset, OvsStage.reset]

theorem unreachableIsReset_iff (P : Params) (s : State) :
    UnreachableIsReset P s ↔
      (∀ c, s.actNch.toNat ≤ c → s.chan c = Channel.reset) ∧
      (∀ j, P.nsec ≤ j → s.bq.getD j Biquad.identity = Biquad.identity) ∧
      ∀ c, BeyondIsReset P (s.chan c) := by
  constructor
  · rintro ⟨hchannels, hsections, hhistories⟩
    refine ⟨hchannels, fun j hj => (hsections j hj).1, fun c => ⟨fun j hj => (hsections j hj).2 c, fun i k => ?_⟩⟩
    obtain ⟨hup, hdne, hdno⟩ := reset_history i k
    rw [hup, hdne, hdno]
    exact hhistories c i k
  · rintro ⟨hchannels, hsections, hbeyond⟩
    refine ⟨hchannels, fun j hj => ⟨hsections j hj, fun c => (hbeyond c).sections j hj⟩, fun c i k => ?_⟩
    obtain ⟨hup, hdne, hdno⟩ := reset_history i k
    have h := (hbeyond c).histories i k
    rwa [hup, hdne, hdno] at h

theorem beyondIsReset_reset (P : Params) : BeyondIsReset P Channel.reset :=
  ⟨fun j _ => by simp [vector_getD, Channel.reset], .refl P _⟩

/-- A reset of units leaves these cells as after reset, selected or not (R113). -/
theorem BeyondIsReset.resetChannel {P : Params} {ch : Channel} (h : BeyondIsReset P ch) (m : BitVec 6) :
    BeyondIsReset P (resetChannel m ch) where
  sections j hj := by
    cases hm : m.getLsbD 5 with
    | false => rw [resetChannel_bs_kept hm]; exact h.sections j hj
    | true => rw [resetChannel_bs_selected hm]; exact (beyondIsReset_reset P).sections j hj
  histories := by
    cases hm : m.getLsbD 4 with
    | false => rw [resetChannel_ovs_kept hm]; exact h.histories
    | true => rw [resetChannel_ovs_selected hm]; exact .refl P _

theorem ChannelChange.beyondIsReset {P : Params} {s : State} {w w' : Work} (h : ChannelChange P s w w')
    (hw : BeyondIsReset P w.ch) : BeyondIsReset P w'.ch :=
  ⟨fun j hj => (h.sections j hj).trans (hw.sections j hj), hw.histories.trans h.histories⟩

/-- No address shows a coefficient of a section from `NSEC` on, so no register write reaches it (R47). -/
theorem writeReg_bq_beyond {P : Params} {a : BitVec 16} {r : Reg} (hr : regAt P a = some r) (w : Word) (s : State)
    {k : Nat} (hk : P.nsec ≤ k) :
    (writeReg r w s).bq.getD k Biquad.identity = s.bq.getD k Biquad.identity := by
  cases r
  case bq j f =>
    have hj : j.val ≠ k := Nat.ne_of_lt (Nat.lt_of_lt_of_le (regAt_bq hr).1 hk)
    simp [writeReg, vector_getD, hj]
  all_goals rfl

theorem BodyEffect.unreachable {P : Params} {i : Instr} {s t : State} (h : BodyEffect P s i t)
    (hs : UnreachableIsReset P s) : UnreachableIsReset P t := by
  rw [unreachableIsReset_iff] at hs ⊢
  obtain ⟨hchannels, hsections, hbeyond⟩ := hs
  cases h with
  | pushes => exact ⟨hchannels, hsections, hbeyond⟩
  | prepares =>
    refine ⟨fun c _ => prepareBody_chan P s c, fun j _ => ?_, fun c => ?_⟩
    · show (Vector.replicate 16 Biquad.identity).getD j Biquad.identity = _
      simp [vector_getD]
    · rw [prepareBody_chan]; exact beyondIsReset_reset P
  | resets _ m =>
    refine ⟨fun c hc => ?_, hsections, fun c => ?_⟩
    · rw [resetUnits_chan, hchannels c hc, resetChannel_reset]
    · rw [resetUnits_chan]; exact (hbeyond c).resetChannel m
  | writes _ a r w hr =>
    refine ⟨fun c hc => ?_, fun j hj => ?_, fun c => ?_⟩
    · rw [(SameConstants.of_writeReg r w s).actNch] at hc
      rw [writeReg_chan]; exact hchannels c hc
    · rw [writeReg_bq_beyond hr w _ hj]; exact hsections j hj
    · rw [writeReg_chan]; exact hbeyond c
  | works _ e n w he hw =>
    refine ⟨fun c hc => ?_, hsections, fun c => ?_⟩
    · rcases afterWork_chan_or e n w s c with hsame | ⟨rfl, -⟩
      · rw [hsame]; exact hchannels c hc
      · exact absurd ((blockCheck_none s c).mp he).2.1 (Nat.not_lt.mpr hc)
    · rcases afterWork_chan_or e n w s c with hsame | ⟨rfl, hworked⟩
      · rw [hsame]; exact hbeyond c
      · rw [hworked]; exact hw.beyondIsReset (hbeyond c)

/-- Settles O49: a block command stays on configured channels, below `NSEC` and below the branches' lengths. -/
theorem stepLeavesTheUnreachableReset : Obligations.StepLeavesTheUnreachableReset := fun _ _ hs hstep =>
  step_keeps (I := UnreachableIsReset Config.params) (fun _ _ h => h) (fun _ h => h) (fun _ _ _ h => h)
    (fun _ _ _ hb => hb.unreachable) hstep hs

/-! ### What is finite while `NF` is 0 (R218) -/

theorem finite_posZero : finite posZero = true := by decide

theorem cellsFinite_reset : CellsFinite Channel.reset :=
  ⟨finite_posZero, by decide, fun i k => by simp [Channel.reset, OvsStage.reset, finite_posZero],
    fun j => by simp [Channel.reset, BiquadState.reset, BiquadState.values, allFinite, finite_posZero]⟩

theorem cellsFinite_resetChannel {ch : Channel} (h : CellsFinite ch) (m : BitVec 6) :
    CellsFinite (resetChannel m ch) := by
  obtain ⟨hdsV, hts, hovs, hbs⟩ := h
  obtain ⟨hdsV', hts', hovs', hbs'⟩ := cellsFinite_reset
  unfold resetChannel
  refine ⟨?_, ?_, ?_, ?_⟩ <;> (dsimp only; split <;> assumption)

/-- The values `NF` watches at `PREPARE` are the same in both states (R218). -/
theorem derivedValues_congr {s t : State} (h : SameConstants s t) : derivedValues t = derivedValues s := by
  rw [derivedValues, h.fsProc, h.dk, h.ok, h.tk]
  rfl

theorem BodyEffect.finite {P : Params} {i : Instr} {s t : State} (h : BodyEffect P s i t) (hs : FiniteUnlessFlagged s) :
    FiniteUnlessFlagged t := by
  intro hnf
  have hold : s.nf = false := Bool.eq_false_iff.mpr fun hn => by simp [h.nf hn] at hnf
  obtain ⟨hderived, hcells⟩ := hs hold
  cases h with
  | pushes => exact ⟨hderived, hcells⟩
  | prepares =>
    refine ⟨?_, fun c => ?_⟩
    · have hflag := (Bool.or_eq_false_iff.mp hnf).2
      rwa [Bool.not_eq_false'] at hflag
    · rw [prepareBody_chan]; exact cellsFinite_reset
  | resets _ m =>
    refine ⟨hderived, fun c => ?_⟩
    rw [resetUnits_chan]
    exact cellsFinite_resetChannel (hcells c) m
  | writes _ a r w =>
    refine ⟨?_, fun c => ?_⟩
    · rw [derivedValues_congr (.of_writeReg r w s)]; exact hderived
    · rw [writeReg_chan]; exact hcells c
  | works _ e n w he hw =>
    refine ⟨hderived, fun c => ?_⟩
    rcases afterWork_chan_or e n w s c with hsame | ⟨rfl, hworked⟩
    · rw [hsame]; exact hcells c
    · rw [hworked]; exact hw.finite hnf (hcells c)

/-- Settles O50: a block command records in `NF` what it writes that is not finite, `PREPARE` what it derives. -/
theorem stepKeepsFiniteUnlessFlagged : Obligations.StepKeepsFiniteUnlessFlagged := fun _ _ hs hstep =>
  step_keeps (I := FiniteUnlessFlagged) (fun _ _ h => h) (fun _ h => h) (fun _ _ _ h => h)
    (fun _ _ _ hb => hb.finite) hstep hs

/-! ### The records (R23, R24, R34, R112, R213) -/

theorem faultCode_range (code : FaultCode) : 1 ≤ code.code.toNat ∧ code.code.toNat ≤ 8 := by
  cases code <;> decide

theorem BodyEffect.faultRecord {P : Params} {i : Instr} {s t : State} (h : BodyEffect P s i t)
    (hs : FaultRecordAgrees s) : FaultRecordAgrees t := by
  obtain ⟨hfaulted, hfault, hfaultCc, -⟩ := h.record
  rw [FaultRecordAgrees, hfaulted, hfault, hfaultCc]
  exact hs

/-- The configuration `PREPARE` puts in force is the one it accepted (R112). -/
theorem configInForceLegal_prepareBody {P : Params} {s : State} (h : ConfigAccepted P s) :
    ConfigInForceLegal P (prepareBody P s) :=
  ⟨nofun, fun _ => ⟨h.rateFinite, h.ratePositive, h.blockLow, h.blockHigh, h.channelsLow, h.channelsHigh, h.factor⟩⟩

theorem BodyEffect.configInForce {P : Params} {i : Instr} {s t : State} (h : BodyEffect P s i t)
    (hs : ConfigInForceLegal P s) : ConfigInForceLegal P t := by
  cases h with
  | pushes | resets | works => exact hs
  | prepares hc => exact configInForceLegal_prepareBody hc
  | writes _ a r w =>
    have hsame := SameConstants.of_writeReg r w s
    rw [ConfigInForceLegal, hsame.prepared, hsame.actSr, hsame.actMaxblk, hsame.actNch, hsame.actOsf]
    exact hs

/-- On a block that is not prepared only a word in or out and a register write pass the checks (R213). -/
theorem BodyEffect.untouched {P : Params} {i : Instr} {s t : State} (h : BodyEffect P s i t)
    (hs : UntouchedUntilPrepared s) : UntouchedUntilPrepared t := by
  intro ht
  cases h with
  | pushes => exact hs ht
  | prepares => cases ht
  | resets _ m hp => exact absurd (hp.symm.trans ht) nofun
  | writes _ a r w =>
    have hsame := SameConstants.of_writeReg r w s
    rw [writeReg_nf, hsame.fsProc, hsame.dk, hsame.ok, hsame.tk, writeReg_chans]
    exact hs (hsame.prepared ▸ ht)
  | works _ c n w hc =>
    have hp := ((blockCheck_none s c).mp hc).1
    exact absurd (hp.symm.trans ht) nofun

/-- Settles O48, the three records side by side. -/
theorem stepKeepsTheRecordsConsistent : Obligations.StepKeepsTheRecordsConsistent := fun _ _ hf hc hu hstep =>
  ⟨step_keeps (I := FaultRecordAgrees) (fun _ _ h => h) (fun _ h => h)
      (fun code _ _ _ => ⟨nofun, fun _ => faultCode_range code⟩) (fun _ _ _ hb => hb.faultRecord) hstep hf,
    step_keeps (I := ConfigInForceLegal Config.params) (fun _ _ h => h) (fun _ h => h) (fun _ _ _ h => h)
      (fun _ _ _ hb => hb.configInForce) hstep hc,
    step_keeps (I := UntouchedUntilPrepared) (fun _ _ h => h) (fun _ h => h) (fun _ _ _ h => h)
      (fun _ _ _ hb => hb.untouched) hstep hu⟩

end Sys2Proof.Proofs

/-! PROOFS. The register map of spec R21: the register an address shows is the one whose address it is, and each
register the block has is shown at its address. -/

namespace Sys2Proof.Proofs

open Sys2Proof.Machine

/-! ### The rows with one address each -/

/-- The addresses of those rows. -/
abbrev FixedAddress (n : Nat) : Prop :=
  n ≤ 0x0006 ∨ (0x0008 ≤ n ∧ n ≤ 0x0011) ∨ (0x0100 ≤ n ∧ n ≤ 0x0106) ∨
  (0x0200 ≤ n ∧ n ≤ 0x0203) ∨ (0x0208 ≤ n ∧ n ≤ 0x020C) ∨ n = 0x0210 ∨
  (0x0300 ≤ n ∧ n ≤ 0x0305) ∨ (0x0308 ≤ n ∧ n ≤ 0x0311) ∨
  (0x0400 ≤ n ∧ n ≤ 0x0409) ∨ (0x0410 ≤ n ∧ n ≤ 0x0422)

/-- The addresses of the rows with a range of them. -/
def RangedAddress (P : Params) (n : Nat) : Prop :=
  (∃ (s d p : Fin 2) (k : Nat), k < P.hblen s d p ∧ n = 0x0500 + 0x40 * (2 * s.val + d.val) + 0x20 * p.val + k) ∨
  (∃ (s d p : Fin 2), n = 0x0600 + 2 * (2 * s.val + d.val) + p.val) ∨
  (∃ (s : Fin 2) (k : Nat), k < P.uplen s ∧ n = 0x0640 + 0x20 * s.val + k) ∨
  (∃ (s : Fin 2) (k : Nat), k < P.hblen s 1 0 ∧ n = 0x0680 + 0x20 * s.val + k) ∨
  (∃ (s : Fin 2) (k : Nat), k < P.hblen s 1 1 ∧ n = 0x06C0 + 0x20 * s.val + k) ∨
  (∃ j f : Nat, j < P.nsec ∧ f < 5 ∧ n = 0x0700 + 8 * j + f) ∨
  (∃ j g : Nat, j < P.nsec ∧ g < 4 ∧ n = 0x0780 + 4 * j + g)

theorem isMapped_iff_fixed_or_ranged (P : Params) (n : Nat) :
    IsMapped P n ↔ FixedAddress n ∨ RangedAddress P n := by
  simp only [IsMapped, FixedAddress, RangedAddress, or_assoc]

theorem FixedAddress.isSome_lookup {n : Nat} (h : FixedAddress n) : (fixedRegs.lookup n).isSome = true := by
  rcases h with h | ⟨h, h'⟩ | ⟨h, h'⟩ | ⟨h, h'⟩ | ⟨h, h'⟩ | rfl | ⟨h, h'⟩ | ⟨h, h'⟩ | ⟨h, h'⟩ | ⟨h, h'⟩
  case inr.inr.inr.inr.inr.inl => rfl
  all_goals interval_cases n <;> rfl

/-- Each of those rows gives a register at its own address, one of these below 0x0500. -/
theorem fixedRegs_address {n : Nat} {r : Reg} (h : fixedRegs.lookup n = some r) :
    n = r.address ∧ n < 0x0500 ∧ FixedAddress n := by
  have hrows : fixedRegs.all (fun e => decide (e.1 = e.2.address ∧ e.1 < 0x0500 ∧ FixedAddress e.1)) = true := by decide
  exact of_decide_eq_true (List.all_eq_true.mp hrows _ (mem_of_lookup h))

/-- Every block has the registers of those rows. -/
theorem present_of_address_lt {r : Reg} (P : Params) (h : r.address < 0x0500) : r.present P := by
  cases r
  case hbtap | hblen | uph | dne | dno | bq | bs => exact absurd h (by simp only [Reg.address]; omega)
  all_goals trivial

theorem lookup_fixedRegs_none {n : Nat} (h : 0x0500 ≤ n) : fixedRegs.lookup n = none := by
  cases hr : fixedRegs.lookup n with
  | none => rfl
  | some r => exact absurd (fixedRegs_address hr).2.1 (Nat.not_lt.mpr h)

/-! ### The rows with a range of addresses: what they show -/

section

variable {P : Params} {r : Reg} {o : Nat}

theorem nsec_le (P : Params) : P.nsec ≤ 16 := P.nsecLess1.isLt

theorem hblen_le (P : Params) (s d p : Fin 2) : P.hblen s d p ≤ 32 := (P.hb s d p).lenLess1.isLt

theorem uplen_le (P : Params) (s : Fin 2) : P.uplen s ≤ 32 := Nat.max_le.mpr ⟨hblen_le P s 0 0, hblen_le P s 0 1⟩

theorem hbtapAt_shows (ho : o < 0x100) (h : hbtapAt P o = some r) : r.present P ∧ 0x0500 + o = r.address := by
  simp only [hbtapAt, Option.ite_none_right_eq_some, Option.some.injEq] at h
  obtain ⟨hk, rfl⟩ := h
  refine ⟨hk, ?_⟩
  simp only [Reg.address, Fin.val_ofNat]
  omega

theorem hblenAt_shows (ho : o < 8) : (hblenAt o).present P ∧ 0x0600 + o = (hblenAt o).address := by
  refine ⟨trivial, ?_⟩
  simp only [hblenAt, Reg.address, Fin.val_ofNat]
  omega

/-- The three histories have one form of row: its address is base + 0x20*s + k (R46). -/
theorem historyAt_shows {len : Fin 2 → Nat} {reg : Fin 2 → Fin 32 → Reg} (ho : o < 0x40)
    (h : historyAt len reg o = some r) :
    ∃ (s : Fin 2) (k : Fin 32), k.val < len s ∧ r = reg s k ∧ o = 0x20 * s.val + k.val := by
  simp only [historyAt, Option.ite_none_right_eq_some, Option.some.injEq] at h
  obtain ⟨hk, rfl⟩ := h
  refine ⟨_, _, hk, rfl, ?_⟩
  simp only [Fin.val_ofNat]
  omega

theorem bqFieldAt_iff (n : Nat) (f : BqField) : bqFieldAt n = some f ↔ n = f.offset := by
  unfold bqFieldAt
  split <;> cases f <;> simp [BqField.offset] <;> omega

theorem bsFieldAt_iff (n : Nat) (g : BsField) : bsFieldAt n = some g ↔ n = g.offset := by
  unfold bsFieldAt
  split <;> cases g <;> simp [BsField.offset] <;> omega

theorem bqAt_shows (h : bqAt P o = some r) : r.present P ∧ 0x0700 + o = r.address := by
  simp only [bqAt, Option.ite_none_right_eq_some, Option.map_eq_some_iff] at h
  obtain ⟨hj, f, hf, rfl⟩ := h
  have hval : (Fin.ofNat 16 (o / 8)).val = o / 8 := Nat.mod_eq_of_lt (Nat.lt_of_lt_of_le hj (nsec_le P))
  have hoff := (bqFieldAt_iff _ _).mp hf
  simp only [Reg.present, Reg.address, hval]
  exact ⟨hj, by omega⟩

theorem bsAt_shows (h : bsAt P o = some r) : r.present P ∧ 0x0780 + o = r.address := by
  simp only [bsAt, Option.ite_none_right_eq_some, Option.map_eq_some_iff] at h
  obtain ⟨hj, g, hg, rfl⟩ := h
  have hval : (Fin.ofNat 16 (o / 4)).val = o / 4 := Nat.mod_eq_of_lt (Nat.lt_of_lt_of_le hj (nsec_le P))
  have hoff := (bsFieldAt_iff _ _).mp hg
  simp only [Reg.present, Reg.address, hval]
  exact ⟨hj, by omega⟩

/-- What the rows with a range show at an address is a register of that address. -/
theorem rangedReg_shows {n : Nat} (h : rangedReg P n = some r) : r.present P ∧ n = r.address := by
  unfold rangedReg at h
  repeat' split at h
  · cases h
  · have := hbtapAt_shows (o := n - 0x0500) (by omega) h
    exact ⟨this.1, by omega⟩
  · obtain rfl := Option.some.inj h
    have := hblenAt_shows (P := P) (o := n - 0x0600) (by omega)
    exact ⟨this.1, by omega⟩
  · cases h
  · obtain ⟨s, k, hk, rfl, ho⟩ := historyAt_shows (by omega) h
    exact ⟨hk, by simp only [Reg.address]; omega⟩
  · obtain ⟨s, k, hk, rfl, ho⟩ := historyAt_shows (by omega) h
    exact ⟨hk, by simp only [Reg.address]; omega⟩
  · obtain ⟨s, k, hk, rfl, ho⟩ := historyAt_shows (by omega) h
    exact ⟨hk, by simp only [Reg.address]; omega⟩
  · have := bqAt_shows h
    exact ⟨this.1, by omega⟩
  · have := bsAt_shows h
    exact ⟨this.1, by omega⟩
  · cases h

theorem regAt_shows {a : BitVec 16} (h : regAt P a = some r) : r.present P ∧ a.toNat = r.address := by
  unfold regAt at h
  split at h
  · next q hq =>
    obtain rfl := Option.some.inj h
    obtain ⟨haddress, hlt, -⟩ := fixedRegs_address hq
    exact ⟨present_of_address_lt P (haddress ▸ hlt), haddress⟩
  · exact rangedReg_shows h

/-! ### Each register at its address -/

theorem hbtapAt_address {s d p : Fin 2} {k : Fin 32} (h : k.val < P.hblen s d p) :
    hbtapAt P (0x40 * (2 * s.val + d.val) + 0x20 * p.val + k.val) = some (.hbtap s d p k) := by
  generalize ho : 0x40 * (2 * s.val + d.val) + 0x20 * p.val + k.val = o
  have hs : Fin.ofNat 2 (o / 0x80) = s := Fin.ext (by simp only [Fin.val_ofNat]; omega)
  have hd : Fin.ofNat 2 (o / 0x40) = d := Fin.ext (by simp only [Fin.val_ofNat]; omega)
  have hp : Fin.ofNat 2 (o / 0x20) = p := Fin.ext (by simp only [Fin.val_ofNat]; omega)
  have hk : Fin.ofNat 32 o = k := Fin.ext (by simp only [Fin.val_ofNat]; omega)
  have hmod : o % 0x20 = k.val := by omega
  simp only [hbtapAt, hs, hd, hp, hk, hmod, if_pos h]

theorem hblenAt_address (s d p : Fin 2) : hblenAt (2 * (2 * s.val + d.val) + p.val) = .hblen s d p := by
  simp only [hblenAt, Reg.hblen.injEq, Fin.ext_iff, Fin.val_ofNat]
  omega

theorem historyAt_address {len : Fin 2 → Nat} {reg : Fin 2 → Fin 32 → Reg} {s : Fin 2} {k : Fin 32}
    (h : k.val < len s) : historyAt len reg (0x20 * s.val + k.val) = some (reg s k) := by
  generalize ho : 0x20 * s.val + k.val = o
  have hs : Fin.ofNat 2 (o / 0x20) = s := Fin.ext (by simp only [Fin.val_ofNat]; omega)
  have hk : Fin.ofNat 32 o = k := Fin.ext (by simp only [Fin.val_ofNat]; omega)
  have hmod : o % 0x20 = k.val := by omega
  simp only [historyAt, hs, hk, hmod, if_pos h]

theorem bqField_offset_lt (f : BqField) : f.offset < 5 := by cases f <;> decide

theorem bsField_offset_lt (g : BsField) : g.offset < 4 := by cases g <;> decide

theorem bqAt_address {j : Fin 16} (h : j.val < P.nsec) (f : BqField) :
    bqAt P (8 * j.val + f.offset) = some (.bq j f) := by
  have hf := bqField_offset_lt f
  have hdiv : (8 * j.val + f.offset) / 8 = j.val := by omega
  have hj : Fin.ofNat 16 j.val = j := Fin.ext (Nat.mod_eq_of_lt j.isLt)
  rw [bqAt, hdiv, if_pos h, (bqFieldAt_iff _ f).mpr (by omega), hj, Option.map_some]

theorem bsAt_address {j : Fin 16} (h : j.val < P.nsec) (g : BsField) :
    bsAt P (4 * j.val + g.offset) = some (.bs j g) := by
  have hg := bsField_offset_lt g
  have hdiv : (4 * j.val + g.offset) / 4 = j.val := by omega
  have hj : Fin.ofNat 16 j.val = j := Fin.ext (Nat.mod_eq_of_lt j.isLt)
  rw [bsAt, hdiv, if_pos h, (bsFieldAt_iff _ g).mpr (by omega), hj, Option.map_some]

/-! The row of the ranged part of the map, by the offset above the row's base. -/

theorem rangedReg_hbtap (ho : o < 0x100) : rangedReg P (0x0500 + o) = hbtapAt P o := by
  rw [rangedReg, if_neg (by omega), if_pos (by omega), Nat.add_sub_cancel_left]

theorem rangedReg_hblen (ho : o < 8) : rangedReg P (0x0600 + o) = some (hblenAt o) := by
  rw [rangedReg, if_neg (by omega), if_neg (by omega), if_pos (by omega), Nat.add_sub_cancel_left]

theorem rangedReg_uph (ho : o < 0x40) : rangedReg P (0x0640 + o) = historyAt P.uplen .uph o := by
  rw [rangedReg, if_neg (by omega), if_neg (by omega), if_neg (by omega), if_neg (by omega), if_pos (by omega),
    Nat.add_sub_cancel_left]

theorem rangedReg_dne (ho : o < 0x40) : rangedReg P (0x0680 + o) = historyAt (fun s => P.hblen s 1 0) .dne o := by
  rw [rangedReg, if_neg (by omega), if_neg (by omega), if_neg (by omega), if_neg (by omega), if_neg (by omega),
    if_pos (by omega), Nat.add_sub_cancel_left]

theorem rangedReg_dno (ho : o < 0x40) : rangedReg P (0x06C0 + o) = historyAt (fun s => P.hblen s 1 1) .dno o := by
  rw [rangedReg, if_neg (by omega), if_neg (by omega), if_neg (by omega), if_neg (by omega), if_neg (by omega),
    if_neg (by omega), if_pos (by omega), Nat.add_sub_cancel_left]

theorem rangedReg_bq (ho : o < 0x80) : rangedReg P (0x0700 + o) = bqAt P o := by
  rw [rangedReg, if_neg (by omega), if_neg (by omega), if_neg (by omega), if_neg (by omega), if_neg (by omega),
    if_neg (by omega), if_neg (by omega), if_pos (by omega), Nat.add_sub_cancel_left]

theorem rangedReg_bs (ho : o < 0x40) : rangedReg P (0x0780 + o) = bsAt P o := by
  rw [rangedReg, if_neg (by omega), if_neg (by omega), if_neg (by omega), if_neg (by omega), if_neg (by omega),
    if_neg (by omega), if_neg (by omega), if_neg (by omega), if_pos (by omega), Nat.add_sub_cancel_left]

/-- A register the block has in a row with a range is what its address shows. -/
theorem rangedReg_address (hpresent : r.present P) (hranged : 0x0500 ≤ r.address) :
    rangedReg P r.address = some r := by
  cases r
  case hbtap s d p k =>
    rw [Reg.address, Nat.add_assoc, Nat.add_assoc, ← Nat.add_assoc (0x40 * _), rangedReg_hbtap (by omega)]
    exact hbtapAt_address hpresent
  case hblen s d p =>
    rw [Reg.address, Nat.add_assoc, rangedReg_hblen (by omega), hblenAt_address]
  case uph s k =>
    rw [Reg.address, Nat.add_assoc, rangedReg_uph (by omega)]
    exact historyAt_address hpresent
  case dne s k =>
    rw [Reg.address, Nat.add_assoc, rangedReg_dne (by omega)]
    exact historyAt_address (len := fun s => P.hblen s 1 0) hpresent
  case dno s k =>
    rw [Reg.address, Nat.add_assoc, rangedReg_dno (by omega)]
    exact historyAt_address (len := fun s => P.hblen s 1 1) hpresent
  case bq j f =>
    have hf := bqField_offset_lt f
    rw [Reg.address, Nat.add_assoc, rangedReg_bq (by omega)]
    exact bqAt_address hpresent f
  case bs j g =>
    have hg := bsField_offset_lt g
    rw [Reg.address, Nat.add_assoc, rangedReg_bs (by omega)]
    exact bsAt_address hpresent g
  case omegaP i => exact absurd hranged (by simp only [Reg.address]; omega)
  all_goals exact absurd hranged (by decide)

/-- A register of a row with one address is found at it. -/
theorem lookup_fixedRegs_address (hfixed : r.address < 0x0500) : fixedRegs.lookup r.address = some r := by
  cases r
  case omegaP i => revert i; decide
  case hbtap | hblen | uph | dne | dno | bq | bs => exact absurd hfixed (by simp only [Reg.address]; omega)
  all_goals rfl

/-- The whole map, both ways (R21). -/
theorem regAt_iff {a : BitVec 16} : regAt P a = some r ↔ r.present P ∧ a.toNat = r.address := by
  refine ⟨regAt_shows, fun ⟨hpresent, haddress⟩ => ?_⟩
  rw [regAt, haddress]
  by_cases hr : r.address < 0x0500
  · rw [lookup_fixedRegs_address hr]
  · have hr := Nat.le_of_not_lt hr
    rw [lookup_fixedRegs_none hr]
    exact rangedReg_address hpresent hr

end

/-- Settles O6: both addresses are the register's own. -/
theorem registerAddressesAreDistinct : Obligations.RegisterAddressesAreDistinct := fun _ _ _ _ ha hb =>
  BitVec.eq_of_toNat_eq ((regAt_iff.mp ha).2.trans (regAt_iff.mp hb).2.symm)

/-! ### Access kinds (R21, R53, R114) -/

/-- The RW registers. -/
theorem eq_of_kind_rw {r : Reg} (h : r.kind = .rw) :
    r = .bypass ∨ r = .blklen ∨ r = .chsel ∨ r = .cfgSr ∨ r = .cfgMaxblk ∨ r = .cfgNch ∨ r = .cfgOsf ∨
    ∃ j f, r = .bq j f := by
  cases r
  case bypass | blklen | chsel | cfgSr | cfgMaxblk | cfgNch | cfgOsf | bq => simp
  all_goals cases h

/-- The state windows. -/
theorem eq_of_kind_window {r : Reg} (h : r.kind = .window) :
    r = .dsV ∨ r = .tsSi ∨ r = .tsSk ∨ r = .tsSo ∨ (∃ s k, r = .uph s k) ∨ (∃ s k, r = .dne s k) ∨
    (∃ s k, r = .dno s k) ∨ ∃ j g, r = .bs j g := by
  cases r
  case dsV | tsSi | tsSk | tsSo | uph | dne | dno | bs => simp
  all_goals cases h

theorem exists_bqField {n : Nat} (h : n < 5) : ∃ f : BqField, f.offset = n :=
  match n, h with
  | 0, _ => ⟨.b0, rfl⟩
  | 1, _ => ⟨.b1, rfl⟩
  | 2, _ => ⟨.b2, rfl⟩
  | 3, _ => ⟨.a1, rfl⟩
  | 4, _ => ⟨.a2, rfl⟩

theorem exists_bsField {n : Nat} (h : n < 4) : ∃ g : BsField, g.offset = n :=
  match n, h with
  | 0, _ => ⟨.x1, rfl⟩
  | 1, _ => ⟨.x2, rfl⟩
  | 2, _ => ⟨.y1, rfl⟩
  | 3, _ => ⟨.y2, rfl⟩

section

variable (P : Params) (n : Nat)

/-- The addresses of the coefficients the block has (R47). -/
theorem coefficient_address_iff :
    (∃ j f : Nat, j < P.nsec ∧ f < 5 ∧ n = 0x0700 + 8 * j + f) ↔
      ∃ j f, (Reg.bq j f).present P ∧ n = (Reg.bq j f).address := by
  constructor
  · rintro ⟨j, _, hj, hf, rfl⟩
    obtain ⟨f, rfl⟩ := exists_bqField hf
    exact ⟨⟨j, Nat.lt_of_lt_of_le hj (nsec_le P)⟩, f, hj, rfl⟩
  · rintro ⟨j, f, hj, hn⟩
    exact ⟨j, f.offset, hj, bqField_offset_lt f, hn⟩

/-- The addresses of the section state (R48). -/
theorem sectionState_address_iff :
    (∃ j g : Nat, j < P.nsec ∧ g < 4 ∧ n = 0x0780 + 4 * j + g) ↔
      ∃ j g, (Reg.bs j g).present P ∧ n = (Reg.bs j g).address := by
  constructor
  · rintro ⟨j, _, hj, hg, rfl⟩
    obtain ⟨g, rfl⟩ := exists_bsField hg
    exact ⟨⟨j, Nat.lt_of_lt_of_le hj (nsec_le P)⟩, g, hj, rfl⟩
  · rintro ⟨j, g, hj, hn⟩
    exact ⟨j, g.offset, hj, bsField_offset_lt g, hn⟩

/-- The addresses of a family of cells by stage and index, all below 32 (R46). -/
theorem history_address_iff {len : Fin 2 → Nat} (hlen : ∀ s, len s ≤ 32) (base : Nat) :
    (∃ (s : Fin 2) (k : Nat), k < len s ∧ n = base + 0x20 * s.val + k) ↔
      ∃ (s : Fin 2) (k : Fin 32), k.val < len s ∧ n = base + 0x20 * s.val + k.val := by
  constructor
  · rintro ⟨s, k, hk, hn⟩
    exact ⟨s, ⟨k, Nat.lt_of_lt_of_le hk (hlen s)⟩, hk, hn⟩
  · rintro ⟨s, k, hk, hn⟩
    exact ⟨s, k, hk, hn⟩

theorem isRwAddress_iff : IsRwAddress P n ↔ ∃ r : Reg, r.kind = .rw ∧ r.present P ∧ n = r.address := by
  rw [IsRwAddress, coefficient_address_iff]
  constructor
  · rintro (⟨hlo, hhi⟩ | ⟨hlo, hhi⟩ | ⟨j, f, hpresent, hn⟩)
    · obtain rfl | rfl | rfl : n = 4 ∨ n = 5 ∨ n = 6 := by omega
      exacts [⟨.bypass, rfl, trivial, rfl⟩, ⟨.blklen, rfl, trivial, rfl⟩, ⟨.chsel, rfl, trivial, rfl⟩]
    · obtain rfl | rfl | rfl | rfl : n = 8 ∨ n = 9 ∨ n = 10 ∨ n = 11 := by omega
      exacts [⟨.cfgSr, rfl, trivial, rfl⟩, ⟨.cfgMaxblk, rfl, trivial, rfl⟩, ⟨.cfgNch, rfl, trivial, rfl⟩,
        ⟨.cfgOsf, rfl, trivial, rfl⟩]
    · exact ⟨.bq j f, rfl, hpresent, hn⟩
  · rintro ⟨r, hkind, hpresent, rfl⟩
    rcases eq_of_kind_rw hkind with rfl | rfl | rfl | rfl | rfl | rfl | rfl | ⟨j, f, rfl⟩
    case inr.inr.inr.inr.inr.inr.inr => exact .inr (.inr ⟨j, f, hpresent, rfl⟩)
    all_goals simp [Reg.address]

theorem isWindowAddress_iff : IsWindowAddress P n ↔ ∃ r : Reg, r.kind = .window ∧ r.present P ∧ n = r.address := by
  rw [IsWindowAddress, sectionState_address_iff, history_address_iff n (uplen_le P),
    history_address_iff n (hblen_le P · 1 0), history_address_iff n (hblen_le P · 1 1)]
  constructor
  · rintro (rfl | ⟨hlo, hhi⟩ | ⟨s, k, hk, hn⟩ | ⟨s, k, hk, hn⟩ | ⟨s, k, hk, hn⟩ | ⟨j, g, hpresent, hn⟩)
    · exact ⟨.dsV, rfl, trivial, rfl⟩
    · obtain rfl | rfl | rfl : n = 0x0420 ∨ n = 0x0421 ∨ n = 0x0422 := by omega
      exacts [⟨.tsSi, rfl, trivial, rfl⟩, ⟨.tsSk, rfl, trivial, rfl⟩, ⟨.tsSo, rfl, trivial, rfl⟩]
    · exact ⟨.uph s k, rfl, hk, hn⟩
    · exact ⟨.dne s k, rfl, hk, hn⟩
    · exact ⟨.dno s k, rfl, hk, hn⟩
    · exact ⟨.bs j g, rfl, hpresent, hn⟩
  · rintro ⟨r, hkind, hpresent, rfl⟩
    rcases eq_of_kind_window hkind with
      rfl | rfl | rfl | rfl | ⟨s, k, rfl⟩ | ⟨s, k, rfl⟩ | ⟨s, k, rfl⟩ | ⟨j, g, rfl⟩
    · exact .inl rfl
    · exact .inr (.inl (by decide))
    · exact .inr (.inl (by decide))
    · exact .inr (.inl (by decide))
    · exact .inr (.inr (.inl ⟨s, k, hpresent, rfl⟩))
    · exact .inr (.inr (.inr (.inl ⟨s, k, hpresent, rfl⟩)))
    · exact .inr (.inr (.inr (.inr (.inl ⟨s, k, hpresent, rfl⟩))))
    · exact .inr (.inr (.inr (.inr (.inr ⟨j, g, hpresent, rfl⟩))))

theorem fixedAddress_iff : FixedAddress n ↔ ∃ r : Reg, (r.present P ∧ n = r.address) ∧ r.address < 0x0500 := by
  constructor
  · intro h
    obtain ⟨r, hr⟩ := Option.isSome_iff_exists.mp h.isSome_lookup
    obtain ⟨rfl, hlt, -⟩ := fixedRegs_address hr
    exact ⟨r, ⟨present_of_address_lt P hlt, rfl⟩, hlt⟩
  · rintro ⟨r, ⟨-, rfl⟩, hlt⟩
    exact (fixedRegs_address (lookup_fixedRegs_address hlt)).2.2

theorem rangedAddress_iff : RangedAddress P n ↔ ∃ r : Reg, (r.present P ∧ n = r.address) ∧ ¬ r.address < 0x0500 := by
  rw [RangedAddress, coefficient_address_iff, sectionState_address_iff]
  constructor
  · rintro (⟨s, d, p, k, hk, rfl⟩ | ⟨s, d, p, rfl⟩ | ⟨s, k, hk, rfl⟩ | ⟨s, k, hk, rfl⟩ | ⟨s, k, hk, rfl⟩ |
      ⟨j, f, hpresent, rfl⟩ | ⟨j, g, hpresent, rfl⟩)
    · exact ⟨.hbtap s d p ⟨k, Nat.lt_of_lt_of_le hk (hblen_le P s d p)⟩, ⟨hk, rfl⟩, by simp only [Reg.address]; omega⟩
    · exact ⟨.hblen s d p, ⟨trivial, rfl⟩, by simp only [Reg.address]; omega⟩
    · exact ⟨.uph s ⟨k, Nat.lt_of_lt_of_le hk (uplen_le P s)⟩, ⟨hk, rfl⟩, by simp only [Reg.address]; omega⟩
    · exact ⟨.dne s ⟨k, Nat.lt_of_lt_of_le hk (hblen_le P s 1 0)⟩, ⟨hk, rfl⟩, by simp only [Reg.address]; omega⟩
    · exact ⟨.dno s ⟨k, Nat.lt_of_lt_of_le hk (hblen_le P s 1 1)⟩, ⟨hk, rfl⟩, by simp only [Reg.address]; omega⟩
    · exact ⟨.bq j f, ⟨hpresent, rfl⟩, by simp only [Reg.address]; omega⟩
    · exact ⟨.bs j g, ⟨hpresent, rfl⟩, by simp only [Reg.address]; omega⟩
  · rintro ⟨r, ⟨hpresent, rfl⟩, hge⟩
    cases r
    case hbtap s d p k => exact .inl ⟨s, d, p, k, hpresent, rfl⟩
    case hblen s d p => exact .inr (.inl ⟨s, d, p, rfl⟩)
    case uph s k => exact .inr (.inr (.inl ⟨s, k, hpresent, rfl⟩))
    case dne s k => exact .inr (.inr (.inr (.inl ⟨s, k, hpresent, rfl⟩)))
    case dno s k => exact .inr (.inr (.inr (.inr (.inl ⟨s, k, hpresent, rfl⟩))))
    case bq j f => exact .inr (.inr (.inr (.inr (.inr (.inl ⟨j, f, hpresent, rfl⟩)))))
    case bs j g => exact .inr (.inr (.inr (.inr (.inr (.inr ⟨j, g, hpresent, rfl⟩)))))
    case omegaP i => exact absurd (show 0x0100 + i.val < 0x0500 by omega) hge
    all_goals exact absurd (by decide) hge

/-- The mapped addresses are those of the registers the block has (R21, R51). -/
theorem isMapped_iff : IsMapped P n ↔ ∃ r : Reg, r.present P ∧ n = r.address := by
  rw [isMapped_iff_fixed_or_ranged, fixedAddress_iff P, rangedAddress_iff, ← exists_or]
  exact exists_congr fun r => and_or_left.symm.trans (and_iff_left (em _))

/-- What an address shows, as a question about the registers the block has. -/
theorem any_regAt_iff (a : BitVec 16) (p : Reg → Bool) :
    (regAt P a).any p = true ↔ ∃ r : Reg, p r = true ∧ r.present P ∧ a.toNat = r.address := by
  simp only [Option.any_eq_true, regAt_iff]
  exact ⟨fun ⟨r, hr, hp⟩ => ⟨r, hp, hr⟩, fun ⟨r, hp, hr⟩ => ⟨r, hr, hp⟩⟩

end

/-- Settles O5: each clause asks for a register the block has at the address, and the map shows exactly those. -/
theorem mappedAddressesAreThoseOfTheTable : Obligations.MappedAddressesAreThoseOfTheTable := by
  intro P a
  refine ⟨?_, fun _ => regAt_iff, ?_, ?_⟩
  · rw [isMapped_iff, Option.isSome_iff_exists]
    exact exists_congr fun _ => regAt_iff
  · rw [isRwAddress_iff, isWritable, any_regAt_iff]
    simp only [decide_eq_true_eq]
  · rw [isWindowAddress_iff, isWindow, any_regAt_iff]
    simp only [decide_eq_true_eq]

end Sys2Proof.Proofs

/-! PROOFS. Reading and writing registers (spec R22 to R53, R114, R115). -/

namespace Sys2Proof.Proofs

open Sys2Proof.Machine

/-! ### What a register reads as after an update -/

/-- The end of a command shows in `CC` alone (R26). -/
theorem readReg_advance (P : Params) (s : State) {q : Reg} (hq : q ≠ .cc) :
    readReg P (advance s) q = readReg P s q := by
  cases q
  case cc => exact absurd rfl hq
  all_goals rfl

/-- No register shows `din`. -/
theorem readReg_dropDin (P : Params) (n : Nat) (s : State) (q : Reg) : readReg P (dropDin n s) q = readReg P s q := by
  cases q <;> rfl

/-- The low n bits of a word, zeros above. -/
theorem setWidth_setWidth_eq_and (w : Word) (n : Nat) :
    (w.setWidth n).setWidth 32 = w &&& (BitVec.allOnes n).setWidth 32 := by
  ext i hi
  simp only [BitVec.getElem_setWidth, BitVec.getElem_and, BitVec.getLsbD_setWidth, BitVec.getLsbD_allOnes]
  rw [Bool.and_comm, BitVec.getLsbD_eq_getElem hi]

theorem biquad_get_set_same (k : Biquad) (f : BqField) (v : Num32) : (k.set f v).get f = v := by
  cases f <;> rfl

theorem biquad_get_set_other (k : Biquad) {f g : BqField} (v : Num32) (h : g ≠ f) : (k.set f v).get g = k.get g := by
  cases f <;> cases g <;> first | rfl | exact absurd rfl h

/-- A coefficient after one was written. -/
theorem readReg_writeReg_bq (P : Params) (w : Word) (s : State) (j i : Fin 16) (f g : BqField) :
    readReg P (writeReg (.bq j f) w s) (.bq i g) = if i = j ∧ g = f then w else readReg P s (.bq i g) := by
  simp only [readReg, writeReg, Fin.getElem_fin, Vector.getElem_set]
  by_cases hij : i = j
  · subst hij
    by_cases hgf : g = f
    · subst hgf
      simp [biquad_get_set_same]
    · simp [hgf, biquad_get_set_other _ w hgf]
  · simp [hij, Fin.val_ne_of_ne (Ne.symm hij)]

/-- An RW register reads as the low bits of the word written that fit its field (R52). -/
theorem readReg_writeReg_same (P : Params) {r : Reg} (hr : r.kind = .rw) (w : Word) (s : State) :
    readReg P (writeReg r w s) r = w &&& fieldMask r := by
  have hall : w = w &&& 0xFFFFFFFF#32 := (BitVec.and_allOnes (x := w)).symm
  rcases eq_of_kind_rw hr with rfl | rfl | rfl | rfl | rfl | rfl | rfl | ⟨j, f, rfl⟩
  · exact setWidth_setWidth_eq_and w 6
  · exact setWidth_setWidth_eq_and w 16
  · exact setWidth_setWidth_eq_and w 4
  · exact hall
  · exact setWidth_setWidth_eq_and w 16
  · exact setWidth_setWidth_eq_and w 5
  · exact setWidth_setWidth_eq_and w 3
  · rw [readReg_writeReg_bq, if_pos ⟨rfl, rfl⟩]
    exact hall

/-- Every other register reads as before; the windows move with `CHSEL` (R53). -/
theorem readReg_writeReg_other (P : Params) {r q : Reg} (hr : r.kind = .rw) (w : Word) (s : State) (hq : q ≠ r)
    (hwindow : r = .chsel → q.kind ≠ .window) : readReg P (writeReg r w s) q = readReg P s q := by
  rcases eq_of_kind_rw hr with rfl | rfl | rfl | rfl | rfl | rfl | rfl | ⟨j, f, rfl⟩
  case inr.inr.inr.inr.inr.inr.inr =>
    cases q
    case bq i g => rw [readReg_writeReg_bq, if_neg fun ⟨hij, hgf⟩ => hq (by rw [hij, hgf])]
    all_goals rfl
  all_goals cases q <;> first | rfl | exact absurd rfl hq | exact absurd rfl (hwindow rfl)

/-! ### `WREG` (R52, R114) -/

/-- `WREG` of an RW register, with a word there, takes the word and writes the register. -/
theorem exec_wreg_rw {a : BitVec 16} {r : Reg} {s : State} {w : Word} {rest : List Word} (hf : s.faulted = false)
    (ha : regAt Config.params a = some r) (hr : r.kind = .rw) (hdin : s.din = w :: rest) :
    exec (.wreg a) s = .next (advance (writeReg r w (dropDin 1 s))) := by
  have hcheck : writeCheck Config.params a = none := by simp [writeCheck, ha, hr]
  have hneed : 1 ≤ s.din.length := by simp [hdin]
  have hbody : wregBody Config.params a s = writeReg r w (dropDin 1 s) := by simp [wregBody, ha, hdin]
  rw [← hbody]
  exact command_runs hf hcheck hneed

/-- Settles O21: the register holds its field of the word, the others are read through the write. -/
theorem wregStoresTheLowBits : Obligations.WregStoresTheLowBits := by
  intro a r s w rest hf ha hr hdin
  have hcc : r ≠ .cc := fun h => by subst h; cases hr
  refine ⟨_, exec_wreg_rw hf ha hr hdin, ?_, fun q hq hqcc hwindow => ?_, ?_⟩
  · rw [readReg_advance _ _ hcc, readReg_writeReg_same _ hr]
  · rw [readReg_advance _ _ hqcc, readReg_writeReg_other _ hr w _ hq hwindow, readReg_dropDin]
  · rw [writeReg_others]
    exact ⟨rfl, by simp [hdin], rfl, rfl, rfl⟩

/-! ### `RREG` of `STATUS` (R22, R115) -/

/-- `RREG` whose checks pass executes, faulted or not (R214). -/
theorem readCommand_runs {check : Option FaultCode} {body : State → State} {s : State} (h : check = none) :
    readCommand check body s = .next (advance (body s)) := by
  simp [readCommand, checkThenExecute, execute, h]

/-- The bits of `STATUS` (R22). -/
theorem statusWord_bits (s : State) :
    (statusWord s).getLsbD 0 = s.prepared ∧ (statusWord s).getLsbD 1 = s.faulted ∧
    (statusWord s).getLsbD 2 = s.nf ∧ ∀ i, 3 ≤ i → (statusWord s).getLsbD i = false := by
  have hlow : (statusWord s).getLsbD 0 = s.prepared ∧ (statusWord s).getLsbD 1 = s.faulted ∧
      (statusWord s).getLsbD 2 = s.nf := by
    unfold statusWord
    cases s.prepared <;> cases s.faulted <;> cases s.nf <;> exact ⟨rfl, rfl, rfl⟩
  obtain ⟨hprepared, hfaulted, hnf⟩ := hlow
  refine ⟨hprepared, hfaulted, hnf, fun i hi => ?_⟩
  have hsmall : s.prepared.toNat + 2 * s.faulted.toNat + 4 * s.nf.toNat < 2 ^ 3 := by
    have := s.prepared.toNat_le
    have := s.faulted.toNat_le
    have := s.nf.toNat_le
    omega
  have hbit := Nat.testBit_lt_two_pow (Nat.lt_of_lt_of_le hsmall (Nat.pow_le_pow_right (by decide) hi))
  rw [statusWord, BitVec.getLsbD_ofNat, hbit, Bool.and_false]

/-- Settles O23: `STATUS` is no window, so nothing keeps `RREG` from pushing it. -/
theorem rregOfStatusPushesTheFlags : Obligations.RregOfStatusPushesTheFlags := by
  intro s
  have hreg : regAt Config.params 0x0000#16 = some .status := regAt_iff.mpr ⟨trivial, rfl⟩
  have hcheck : readCheck Config.params s 0x0000#16 = none := by simp [readCheck, hreg, Reg.kind]
  have hbody : rregBody Config.params 0x0000#16 s = pushDout [statusWord s] s := by simp [rregBody, hreg, readReg]
  refine ⟨s.draws + 1, statusWord s, ?_, statusWord_bits s⟩
  have hrun : exec (.rreg 0x0000#16) s = .next (advance (rregBody Config.params 0x0000#16 s)) := readCommand_runs hcheck
  rw [hrun, hbody]
  rfl

/-! ### Every other register (R23 to R53) -/

/-- Settles O24, row by row of the map; only a branch length is a number that has to fit its word. -/
theorem registersReadAsTheirFields : Obligations.RegistersReadAsTheirFields := by
  intro P s
  refine ⟨rfl, rfl, rfl, ⟨rfl, rfl, fun _ => rfl⟩, rfl, rfl, rfl, rfl, rfl, rfl, rfl, fun i d p => ⟨?_, fun _ => rfl⟩,
    fun _ => rfl, fun ch hch => ?_⟩
  · have hlen := hblen_le P i d p
    rw [readReg, BitVec.toNat_ofNat, Nat.mod_eq_of_lt (by omega)]
  · subst hch
    exact ⟨rfl, fun _ _ => rfl, fun _ => rfl⟩

end Sys2Proof.Proofs

/-! PROOFS. The sample memories and the channels: what `LDBLK` and `STBLK` move, that a block command is local to its
channel (`LocalTo`), and that every step advances the model's own counter. -/

namespace Sys2Proof.Proofs

open Sys2Proof.Machine

/-! ### `STBLK` (R74, R118) -/

/-- `STBLK` whose checks pass pushes the cells' words. -/
theorem exec_stblk_runs {s : State} {c : Nat} (h : ReadyFor s c) (b : BufSel) :
    exec (.stblk c b) s = .next (advance (pushDout (storedWords c b s) s)) :=
  command_runs h.running h.check (Nat.zero_le _)

/-- A cell that has been written reads as its value, whatever the draw (R74). -/
theorem read_of_written {ch : Channel} {b : BufSel} {i : Nat} {v : Num32} (h : memGet (ch.buf b) i = some v)
    (d : Draw) : ch.read d b i = v := by
  rw [Channel.read, h, Option.getD_some]

/-- Settles O26: the word of cell i is what reading it at this command gives. -/
theorem stblkPushesTheCells : Obligations.StblkPushesTheCells := by
  intro c b s h
  exact ⟨s.draws + 1, fun i => (s.chan c).read s.drawKey b i, exec_stblk_runs h b,
    fun _ _ _ hcell => read_of_written hcell s.drawKey⟩

/-! ### `STBLK` after `LDBLK` (R73, R95, R117, R118) -/

/-- `LDBLK` whose checks pass, with its words there, moves them into the buffer. -/
theorem exec_ldblk_runs {s : State} {c : Nat} {b : BufSel} (h : ReadyFor s c) (hdin : lenOf s b ≤ s.din.length) :
    exec (.ldblk c b) s = .next (advance (ldblkBody c b s)) :=
  command_runs h.running h.check hdin

/-- The first cells of buffer b of channel c hold the words ws, one for each cell of the block. -/
structure HoldsBlock (s : State) (c : Nat) (b : BufSel) (ws : List Word) : Prop where
  length : ws.length = lenOf s b
  cells : ∀ i, i < ws.length → memGet ((s.chan c).buf b) i = ws[i]?

/-- From a buffer that holds ws, `STBLK` pushes ws: no cell of the block is left to a free value. -/
theorem HoldsBlock.storedWords_eq {s : State} {c : Nat} {b : BufSel} {ws : List Word} (h : HoldsBlock s c b ws) :
    storedWords c b s = ws := by
  refine List.ext_getElem (by simp [storedWords, h.length]) fun i _ hi => ?_
  have hcell : memGet ((s.chan c).buf b) i = some ws[i] := by rw [h.cells i hi, List.getElem?_eq_getElem hi]
  simp [storedWords, read_of_written hcell]

/-- `LDBLK` leaves the words it took from `din` in the buffer (R117). -/
theorem holdsBlock_ldblkBody {s : State} {c : Nat} {b : BufSel} (hc : c < 16) (hdin : lenOf s b ≤ s.din.length) :
    HoldsBlock (advance (ldblkBody c b s)) c b (s.din.take (lenOf s b)) where
  length := List.length_take_of_le hdin
  cells i hi := by
    have hbuf : ((advance (ldblkBody c b s)).chan c).buf b
        = memSetFrom ((s.chan c).buf b) 0 (s.din.take (lenOf s b)) := by
      rw [ldblkBody, advance_chan, dropDin_chan, chan_setChan_same s c _ hc, setBuf_buf_same, dinWords]
    rw [hbuf, memGet_memSetFrom, if_pos ⟨Nat.zero_le i, by omega⟩, Nat.sub_zero]

/-- A block that is ready stays ready through `LDBLK`. -/
theorem readyFor_ldblkBody {s : State} {c : Nat} (h : ReadyFor s c) (b : BufSel) :
    ReadyFor (advance (ldblkBody c b s)) c := ⟨h.running, h.prepared, h.channel, h.length⟩

/-- A block that is ready stays ready through a push. -/
theorem readyFor_pushDout {s : State} {c : Nat} (h : ReadyFor s c) (ws : List Word) :
    ReadyFor (advance (pushDout ws s)) c := ⟨h.running, h.prepared, h.channel, h.length⟩

/-- `STBLK` of a buffer that holds ws pushes ws, and the buffer holds ws still. -/
theorem HoldsBlock.exec_stblk {s : State} {c : Nat} {b : BufSel} {ws : List Word} (h : HoldsBlock s c b ws)
    (hready : ReadyFor s c) :
    exec (.stblk c b) s = .next (advance (pushDout ws s)) ∧ HoldsBlock (advance (pushDout ws s)) c b ws := by
  refine ⟨?_, h.length, h.cells⟩
  rw [exec_stblk_runs hready, h.storedWords_eq]

/-- Settles O27: after the load the buffer holds the words, and each store pushes them and leaves it so. -/
theorem storeAfterLoadReturnsTheWords : Obligations.StoreAfterLoadReturnsTheWords := by
  intro c b s h hc hdin
  obtain ⟨hstore, hholds⟩ := (holdsBlock_ldblkBody hc hdin).exec_stblk (readyFor_ldblkBody h b)
  obtain ⟨hagain, -⟩ := hholds.exec_stblk (readyFor_pushDout (readyFor_ldblkBody h b) _)
  exact ⟨_, _, _, exec_ldblk_runs h hdin, hstore, hagain, rfl, rfl⟩

/-! ### A block command is local to its channel (R83, R85) -/

/-- s' differs from s at most in the channels other than c. -/
structure AgreesOn (c : Nat) (s s' : State) : Prop where
  shared : s' = { s with chans := s'.chans }
  channel : s'.chan c = s.chan c

/-- The second state as the first one with its channels exchanged: its registers and streams are then the first's by
definition. -/
theorem AgreesOn.eq_withChans {c : Nat} {s s' : State} (h : AgreesOn c s s') :
    ∃ chans : Vector Channel 16, s' = { s with chans := chans } := ⟨s'.chans, h.shared⟩

/-- Replacing channel c by one and the same channel keeps the agreement. -/
theorem AgreesOn.setChan {c : Nat} {s s' : State} (h : AgreesOn c s s') (ch : Channel) :
    AgreesOn c (s.setChan c ch) (s'.setChan c ch) where
  shared := by
    obtain ⟨chans, rfl⟩ := h.eq_withChans
    rfl
  channel := by
    by_cases hc : c < 16
    · rw [chan_setChan_same s' c ch hc, chan_setChan_same s c ch hc]
    · rw [setChan_beyond s' c ch (Nat.le_of_not_lt hc), setChan_beyond s c ch (Nat.le_of_not_lt hc), h.channel]

/-- An update of the state that neither changes another channel than c nor depends on one. -/
structure LocalTo (c : Nat) (f : State → State) : Prop where
  others : ∀ s e, e ≠ c → (f s).chan e = s.chan e
  agrees : ∀ s s', AgreesOn c s s' → AgreesOn c (f s) (f s')

section

variable {c : Nat}

theorem LocalTo.comp {f g : State → State} (hg : LocalTo c g) (hf : LocalTo c f) : LocalTo c fun s => g (f s) where
  others s e he := (hg.others (f s) e he).trans (hf.others s e he)
  agrees s s' h := hg.agrees _ _ (hf.agrees s s' h)

theorem localTo_advance : LocalTo c advance where
  others _ _ _ := rfl
  agrees s s' h := by
    obtain ⟨chans, rfl⟩ := h.eq_withChans
    exact ⟨rfl, h.channel⟩

theorem localTo_raiseFault (code : FaultCode) : LocalTo c (raiseFault code) where
  others _ _ _ := rfl
  agrees s s' h := by
    obtain ⟨chans, rfl⟩ := h.eq_withChans
    exact ⟨rfl, h.channel⟩

/-- `STBLK` pushes what the cells of its own channel read as. -/
theorem localTo_stblk (b : BufSel) : LocalTo c fun s => pushDout (storedWords c b s) s where
  others _ _ _ := rfl
  agrees s s' h := by
    obtain ⟨chans, rfl⟩ := h.eq_withChans
    have hwords : storedWords c b { s with chans := chans } = storedWords c b s := by
      rw [storedWords, h.channel]
      rfl
    rw [hwords]
    exact ⟨rfl, h.channel⟩

/-- The work w on channel c, and n words of `din` gone: local when w and n are. -/
theorem localTo_afterWork {n : State → Nat} {w : State → Work} (hn : ∀ s s', AgreesOn c s s' → n s' = n s)
    (hw : ∀ s s', AgreesOn c s s' → w s' = w s) : LocalTo c fun s => afterWork c (n s) (w s) s where
  others s e he := chan_setChan_other s c e _ he
  agrees s s' h := by
    rw [hn s s' h, hw s s' h]
    have hset := h.setChan (w s).ch
    obtain ⟨chans, rfl⟩ := h.eq_withChans
    exact ⟨rfl, hset.channel⟩

theorem localTo_ldblkBody (b : BufSel) : LocalTo c (ldblkBody c b) := by
  have hlen : ∀ s s', AgreesOn c s s' → lenOf s' b = lenOf s b := fun s s' h => by
    obtain ⟨chans, rfl⟩ := h.eq_withChans
    rfl
  refine localTo_afterWork hlen
    (w := fun s => ⟨(s.chan c).setBuf b (memSetFrom ((s.chan c).buf b) 0 (dinWords s (lenOf s b))), s.nf⟩)
    fun s s' h => ?_
  obtain ⟨chans, rfl⟩ := h.eq_withChans
  rw [h.channel]
  rfl

/-- A processing command works on its own channel, with a job that looks at no channel of the state. -/
theorem localTo_processChannel (u : UnitId) (job : State → Draw → Work → Work)
    (hjob : ∀ (s : State) (chans : Vector Channel 16), job { s with chans := chans } = job s) :
    LocalTo c fun s => processChannel u c (job s) s where
  others s e he := processChannel_other_chan u c e (job s) s he
  agrees s s' h := by
    have hbypass : bypassed s' u = bypassed s u := by
      obtain ⟨chans, rfl⟩ := h.eq_withChans
      rfl
    cases hb : bypassed s u with
    | true => rwa [processChannel_bypassed hb, processChannel_bypassed (hbypass.trans hb)]
    | false =>
      have hruns : ∀ v : State, bypassed v u = false →
          processChannel u c (job v) v = afterWork c 0 (job v v.drawKey ⟨v.chan c, v.nf⟩) v := fun v hv => by
        rw [processChannel, hv]
        rfl
      rw [hruns s hb, hruns s' (hbypass.trans hb)]
      refine (localTo_afterWork (n := fun _ => 0) (w := fun v => job v v.drawKey ⟨v.chan c, v.nf⟩)
        (fun _ _ _ => rfl) fun v v' hv => ?_).agrees s s' h
      obtain ⟨chans, rfl⟩ := hv.eq_withChans
      rw [hjob, hv.channel]
      rfl

/-- The body of a `*.RUN` command, with a sample function that looks at no channel of the state. -/
theorem localTo_runUnit (u : UnitId) (b : BufSel) (f : State → Draw → Channel → Num32 → Sampled)
    (hf : ∀ (s : State) (chans : Vector Channel 16), f { s with chans := chans } = f s) :
    LocalTo c fun s => runUnit u c b (f s) s :=
  localTo_processChannel u (fun s d => runBlock b (f s) d (lenOf s b)) fun s chans => by
    funext d
    rw [hf]
    rfl

/-- The body of every block command is local to its channel: of the rest of the state it sees the settings and the
constants. -/
theorem localTo_bodyOf (P : Params) {i : Instr} (hi : channelOf i = some c) : LocalTo c fun s => bodyOf P s i s := by
  cases i with
  | nop | prepare | reset | wreg | rreg => cases hi
  | ldblk _ b => cases hi; exact localTo_ldblkBody b
  | stblk _ b => cases hi; exact localTo_stblk b
  | lwsRun _ b => cases hi; exact localTo_runUnit .lws b (fun _ => lwsSample P) fun _ _ => rfl
  | dwsRun _ => cases hi; exact localTo_runUnit .dws .hi (fun s => dwsSample P s.dk) fun _ _ => rfl
  | oacRun _ b v => cases hi; exact localTo_runUnit .oac b (fun s => oacSample P s.ok v) fun _ _ => rfl
  | triRun _ => cases hi; exact localTo_runUnit .tri .hi (fun s => triSample P s.tk) fun _ _ => rfl
  | ovsUp _ =>
    cases hi
    exact localTo_processChannel .ovs
      (fun s d w => (List.range s.blklen.toNat).foldl (upStep P s.actOsf d) w) fun _ _ => rfl
  | ovsDown _ =>
    cases hi
    exact localTo_processChannel .ovs
      (fun s d w => (List.range s.blklen.toNat).foldl (downStep P s.actOsf d) w) fun _ _ => rfl
  | bqcRun _ b f l => cases hi; exact localTo_runUnit .bqc b (fun s => bqcSample s.bq f l) fun _ _ => rfl

/-- The checks of a command and the words it needs look at no channel. -/
theorem AgreesOn.checksOf_eq {s s' : State} (h : AgreesOn c s s') (P : Params) (i : Instr) :
    checksOf P s' i = checksOf P s i := by
  obtain ⟨chans, rfl⟩ := h.eq_withChans
  cases i <;> rfl

theorem AgreesOn.needOf_eq {s s' : State} (h : AgreesOn c s s') (i : Instr) : needOf s' i = needOf s i := by
  obtain ⟨chans, rfl⟩ := h.eq_withChans
  cases i <;> rfl

/-- A block command that answers a next state is one local update, of every state that agrees on its channel: it is
discarded, it records a fault, or its body runs, and which of these it is depends on no channel. -/
theorem exec_local {i : Instr} {s t : State} (hi : channelOf i = some c) (h : exec i s = .next t) :
    ∃ f, LocalTo c f ∧ t = f s ∧ ∀ s', AgreesOn c s s' → exec i s' = .next (f s') := by
  have hrreg : ∀ a, i ≠ .rreg a := fun a ha => by subst ha; cases hi
  have hexec : ∀ s', AgreesOn c s s' → exec i s' = command (firstFailing (checksOf Config.params s i))
      (needOf s i) (bodyOf Config.params s' i) s' := fun s' hs => by
    rw [exec_command i s' hrreg, hs.checksOf_eq, hs.needOf_eq]
  have hfaulted : ∀ s', AgreesOn c s s' → s'.faulted = s.faulted := fun s' hs => by rw [hs.shared]
  have hdin : ∀ s', AgreesOn c s s' → s'.din = s.din := fun s' hs => by rw [hs.shared]
  rcases exec_next h with ⟨hf, ht⟩ | ⟨hf, code, hcheck, ht⟩ | ⟨hcheck, hneed, hf, ht⟩
  · refine ⟨advance, localTo_advance, ht, fun s' hs => ?_⟩
    rw [hexec s' hs, command_discards ((hfaulted s' hs).trans hf)]
  · refine ⟨_, localTo_advance.comp (localTo_raiseFault code), ht, fun s' hs => ?_⟩
    rw [hexec s' hs, command_faults ((hfaulted s' hs).trans hf) hcheck]
  · refine ⟨_, localTo_advance.comp (localTo_bodyOf Config.params hi), ht, fun s' hs => ?_⟩
    have hf : s.faulted = false := hf.resolve_right fun ⟨a, ha⟩ => hrreg a ha
    rw [hexec s' hs, command_runs ((hfaulted s' hs).trans hf) hcheck (by rwa [hdin s' hs])]

end

/-- Settles O45: the one local update keeps the other channels of s, and takes s and s' to states that agree. -/
theorem channelsAreIndependent : Obligations.ChannelsAreIndependent := by
  intro i c hi
  constructor
  · intro s t h e he
    obtain ⟨f, hlocal, rfl, -⟩ := exec_local hi h
    exact hlocal.others s e he
  · intro s s' t hshared hchannel h
    obtain ⟨f, hlocal, rfl, hexec⟩ := exec_local hi h
    have hs : AgreesOn c s s' := ⟨hshared, hchannel⟩
    have ht := hlocal.agrees s s' hs
    exact ⟨f s', hexec s' hs, ht.channel, ht.shared⟩

/-! ### The model's own counter (log 4) -/

/-- No body touches the counter. -/
theorem BodyEffect.draws {P : Params} {i : Instr} {s t : State} (h : BodyEffect P s i t) : t.draws = s.draws := by
  cases h with
  | pushes | prepares | resets | works => rfl
  | writes => rw [writeReg_others]; rfl

/-- Settles O14: whatever a step does to the state, it counts the word at the end. -/
theorem everyStepDrawsAfresh : Obligations.EveryStepDrawsAfresh := by
  intro s t h
  obtain ⟨w, rest, u, -, he, rfl⟩ := step_effect h
  have hu : u.draws = s.draws := by
    cases he with
    | discarded | faults => rfl
    | runs hb => exact hb.draws
  rw [advance_draws, hu]

end Sys2Proof.Proofs

/-! PROOFS. The encoding (spec R90 to R99). A row's test of a word is brought to equations between ranges of bits, which
say that the word is the encoding of the row's command (`hits_iff_encode`); decoding is then the inverse of encoding. -/

namespace Sys2Proof.Proofs

open Sys2Proof.Laws

/-! ### Masks as ranges of bits -/

/-- Bits k to k + n - 1 of two numbers are the same. -/
theorem bitRange_eq_iff {x y k n : Nat} :
    x / 2 ^ k % 2 ^ n = y / 2 ^ k % 2 ^ n ↔ ∀ i, k ≤ i → i < k + n → x.testBit i = y.testBit i := by
  have hbit : ∀ z j, (z / 2 ^ k % 2 ^ n).testBit j = (decide (j < n) && z.testBit (k + j)) := fun z j => by
    rw [Nat.testBit_mod_two_pow, Nat.testBit_div_two_pow, Nat.add_comm]
  constructor
  · intro h i hk hn
    have hi := congrArg (fun z => z.testBit (i - k)) h
    simpa [hbit, Nat.add_sub_cancel' hk, show i - k < n by omega] using hi
  · intro h
    refine Nat.eq_of_testBit_eq fun j => ?_
    rw [hbit, hbit]
    by_cases hj : j < n
    · rw [h (k + j) (by omega) (by omega)]
    · simp [hj]

/-- The mask keeps the bits of the ranges, each given by its lowest bit and its length, and no other bit. -/
def keepsRanges (mask : Word) (ranges : List (Nat × Nat)) : Bool :=
  decide (∀ i : Fin 32, mask.getLsbD i = ranges.any fun e => decide (e.1 ≤ i) && decide (i < e.1 + e.2))

/-- A word masked is the pattern when it has the pattern's bits in each range that the mask keeps. -/
theorem and_mask_eq_iff {mask pattern : Word} {ranges : List (Nat × Nat)} (hm : keepsRanges mask ranges = true)
    (hp : pattern &&& mask = pattern) (w : Word) :
    w &&& mask = pattern ↔
      ∀ e ∈ ranges, w.toNat / 2 ^ e.1 % 2 ^ e.2 = pattern.toNat / 2 ^ e.1 % 2 ^ e.2 := by
  have hm := of_decide_eq_true hm
  simp only [bitRange_eq_iff, BitVec.testBit_toNat]
  constructor
  · rintro rfl e he i hk hn
    by_cases hi : i < 32
    · have hkept : mask.getLsbD i = true := by
        rw [hm ⟨i, hi⟩, List.any_eq_true]
        exact ⟨e, he, by simp [hk, hn]⟩
      simp [hkept]
    · simp [BitVec.getLsbD_of_ge _ _ (not_lt.mp hi)]
  · intro h
    rw [← hp]
    refine BitVec.eq_of_getLsbD_eq fun i hi => ?_
    rw [BitVec.getLsbD_and, BitVec.getLsbD_and]
    cases hkept : mask.getLsbD i with
    | false => simp
    | true =>
      rw [hm ⟨i, hi⟩, List.any_eq_true] at hkept
      obtain ⟨e, he, hin⟩ := hkept
      simp only [Bool.and_eq_true, decide_eq_true_eq] at hin
      rw [h e he i hin.1 hin.2]

/-! ### The fields as ranges of bits (R91) -/

theorem fieldC_eq (w : Word) : fieldC w = w.toNat / 2 ^ 20 % 2 ^ 4 := by
  rw [fieldC, BitVec.extractLsb'_toNat, Nat.shiftRight_eq_div_pow]

theorem fieldF_eq (w : Word) : fieldF w = w.toNat % 2 ^ 4 := by
  rw [fieldF, BitVec.extractLsb'_toNat, Nat.shiftRight_zero]

theorem fieldL_eq (w : Word) : fieldL w = w.toNat / 2 ^ 8 % 2 ^ 4 := by
  rw [fieldL, BitVec.extractLsb'_toNat, Nat.shiftRight_eq_div_pow]

theorem fieldA_toNat (w : Word) : (fieldA w).toNat = w.toNat % 2 ^ 16 := by
  rw [fieldA, BitVec.extractLsb'_toNat, Nat.shiftRight_zero]

theorem fieldM_toNat (w : Word) : (fieldM w).toNat = w.toNat % 2 ^ 6 := by
  rw [fieldM, BitVec.extractLsb'_toNat, Nat.shiftRight_zero]

theorem getLsbD_eq_decide (w : Word) (k : Nat) : w.getLsbD k = decide (w.toNat / 2 ^ k % 2 = 1) := by
  rw [← BitVec.testBit_toNat, Nat.testBit_eq_decide_div_mod_eq]

theorem fieldB_bit (w : Word) : (fieldB w).bit = w.toNat / 2 ^ 19 % 2 := by
  rw [fieldB, getLsbD_eq_decide]
  split <;> simp_all [BufSel.bit]

theorem fieldV_bit (w : Word) : (fieldV w).bit = w.toNat / 2 ^ 16 % 2 := by
  rw [fieldV, getLsbD_eq_decide]
  split <;> simp_all [OacVariant.bit]

theorem bufSel_bit_inj {b b' : BufSel} : b.bit = b'.bit ↔ b = b' := by cases b <;> cases b' <;> decide

theorem variant_bit_inj {v v' : OacVariant} : v.bit = v'.bit ↔ v = v' := by cases v <;> cases v' <;> decide

theorem variant_bit_lt_two (v : OacVariant) : v.bit < 2 := by cases v <;> decide

/-! ### The rows (R92, R93)

Each shape of row once: a word with the bits of the row's pattern is the encoding of the row's command, whose operands
are the bits that the mask drops. -/

section Shapes

variable {op : Nat} {pattern : Word} (w : Word)

/-- `NOP`, `PREPARE`. -/
theorem hits_plain_iff (hop : pattern.toNat = op * 2 ^ 24) (hp : pattern &&& 0xFFFFFFFF#32 = pattern) :
    w &&& 0xFFFFFFFF#32 = pattern ↔ cmdWord op 0 0 0 0 = w := by
  have hw := w.isLt
  have hlt := pattern.isLt
  rw [and_mask_eq_iff (ranges := [(0, 32)]) (by decide) hp, hop, ← BitVec.toNat_inj]
  simp only [List.forall_mem_cons, List.not_mem_nil, false_implies, implies_true, and_true, cmdWord, BitVec.toNat_ofNat]
  constructor <;> omega

/-- `RESET`. -/
theorem hits_unitMask_iff (hop : pattern.toNat = op * 2 ^ 24) (hp : pattern &&& 0xFFFFFFC0#32 = pattern) :
    w &&& 0xFFFFFFC0#32 = pattern ↔ cmdWord op 0 0 0 (fieldM w).toNat = w := by
  have hw := w.isLt
  have hlt := pattern.isLt
  rw [and_mask_eq_iff (ranges := [(6, 26)]) (by decide) hp, hop, ← BitVec.toNat_inj, fieldM_toNat]
  simp only [List.forall_mem_cons, List.not_mem_nil, false_implies, implies_true, and_true, cmdWord, BitVec.toNat_ofNat]
  constructor <;> omega

/-- `WREG`, `RREG`. -/
theorem hits_address_iff (hop : pattern.toNat = op * 2 ^ 24) (hp : pattern &&& 0xFFFF0000#32 = pattern) :
    w &&& 0xFFFF0000#32 = pattern ↔ cmdWord op 0 0 0 (fieldA w).toNat = w := by
  have hw := w.isLt
  have hlt := pattern.isLt
  rw [and_mask_eq_iff (ranges := [(16, 16)]) (by decide) hp, hop, ← BitVec.toNat_inj, fieldA_toNat]
  simp only [List.forall_mem_cons, List.not_mem_nil, false_implies, implies_true, and_true, cmdWord, BitVec.toNat_ofNat]
  constructor <;> omega

/-- `LDBLK`, `STBLK`, `LWS.RUN`. -/
theorem hits_channelBuffer_iff (hop : pattern.toNat = op * 2 ^ 24) (hp : pattern &&& 0xFF07FFFF#32 = pattern) :
    w &&& 0xFF07FFFF#32 = pattern ↔ cmdWord op (fieldC w) (fieldB w).bit 0 0 = w := by
  have hw := w.isLt
  have hlt := pattern.isLt
  rw [and_mask_eq_iff (ranges := [(24, 8), (0, 19)]) (by decide) hp, hop, ← BitVec.toNat_inj, fieldC_eq, fieldB_bit]
  simp only [List.forall_mem_cons, List.not_mem_nil, false_implies, implies_true, and_true, cmdWord, BitVec.toNat_ofNat]
  constructor <;> omega

/-- `DWS.RUN`, `TRI.RUN`, `OVS.UP` and `OVS.DOWN`, the buffer fixed. -/
theorem hits_channel_iff {b : Nat} (hb : b < 2) (hop : pattern.toNat = op * 2 ^ 24 + b * 2 ^ 19)
    (hp : pattern &&& 0xFF0FFFFF#32 = pattern) :
    w &&& 0xFF0FFFFF#32 = pattern ↔ cmdWord op (fieldC w) b 0 0 = w := by
  have hw := w.isLt
  have hlt := pattern.isLt
  rw [and_mask_eq_iff (ranges := [(24, 8), (0, 20)]) (by decide) hp, hop, ← BitVec.toNat_inj, fieldC_eq]
  simp only [List.forall_mem_cons, List.not_mem_nil, false_implies, implies_true, and_true, cmdWord, BitVec.toNat_ofNat]
  constructor <;> omega

/-- `OAC.RUN`. -/
theorem hits_variant_iff (hop : pattern.toNat = op * 2 ^ 24) (hp : pattern &&& 0xFF06FFFF#32 = pattern) :
    w &&& 0xFF06FFFF#32 = pattern ↔ cmdWord op (fieldC w) (fieldB w).bit (fieldV w).bit 0 = w := by
  have hw := w.isLt
  have hlt := pattern.isLt
  rw [and_mask_eq_iff (ranges := [(24, 8), (17, 2), (0, 16)]) (by decide) hp, hop, ← BitVec.toNat_inj, fieldC_eq,
    fieldB_bit, fieldV_bit]
  simp only [List.forall_mem_cons, List.not_mem_nil, false_implies, implies_true, and_true, cmdWord, BitVec.toNat_ofNat]
  constructor <;> omega

/-- `BQC.RUN`. -/
theorem hits_sections_iff (hop : pattern.toNat = op * 2 ^ 24) (hp : pattern &&& 0xFF07F0F0#32 = pattern) :
    w &&& 0xFF07F0F0#32 = pattern ↔ cmdWord op (fieldC w) (fieldB w).bit 0 (fieldL w * 2 ^ 8 + fieldF w) = w := by
  have hw := w.isLt
  have hlt := pattern.isLt
  rw [and_mask_eq_iff (ranges := [(24, 8), (12, 7), (4, 4)]) (by decide) hp, hop, ← BitVec.toNat_inj, fieldC_eq,
    fieldB_bit, fieldL_eq, fieldF_eq]
  simp only [List.forall_mem_cons, List.not_mem_nil, false_implies, implies_true, and_true, cmdWord, BitVec.toNat_ofNat]
  constructor <;> omega

end Shapes

/-- The word hits the row when it is the encoding of the row's command. -/
theorem hits_iff_encode {r : OpRow} (hr : r ∈ opRows) (w : Word) :
    w &&& r.mask = r.pattern ↔ encode (r.command w) = w := by
  simp only [opRows, List.mem_cons, List.not_mem_nil, or_false] at hr
  rcases hr with rfl | rfl | rfl | rfl | rfl | rfl | rfl | rfl | rfl | rfl | rfl | rfl | rfl | rfl
  · exact hits_plain_iff w rfl rfl
  · exact hits_plain_iff w rfl rfl
  · exact hits_unitMask_iff w rfl rfl
  · exact hits_address_iff w rfl rfl
  · exact hits_address_iff w rfl rfl
  · exact hits_channelBuffer_iff w rfl rfl
  · exact hits_channelBuffer_iff w rfl rfl
  · exact hits_channelBuffer_iff w rfl rfl
  · exact hits_channel_iff (op := 0x11) (b := 1) w (by decide) rfl rfl
  · exact hits_variant_iff w rfl rfl
  · exact hits_channel_iff (op := 0x13) (b := 1) w (by decide) rfl rfl
  · exact hits_channel_iff (op := 0x14) (b := 0) w (by decide) rfl rfl
  · exact hits_channel_iff (op := 0x15) (b := 0) w (by decide) rfl rfl
  · exact hits_sections_iff w rfl rfl

/-- A row's command is well-formed: each channel and section is a field of four bits. -/
theorem command_wf {r : OpRow} (hr : r ∈ opRows) (w : Word) : (r.command w).wf = true := by
  have hc : fieldC w < 16 := (w.extractLsb' 20 4).isLt
  have hf : fieldF w < 16 := (w.extractLsb' 0 4).isLt
  have hl : fieldL w < 16 := (w.extractLsb' 8 4).isLt
  simp only [opRows, List.mem_cons, List.not_mem_nil, or_false] at hr
  rcases hr with rfl | rfl | rfl | rfl | rfl | rfl | rfl | rfl | rfl | rfl | rfl | rfl | rfl | rfl <;>
    simp [Instr.wf, hc, hf, hl]

/-! ### Decoding (R93) -/

/-- The patterns are disjoint (R92). -/
theorem opRows_pairwise_apart : opRows.Pairwise fun r q => r.apart q = true := by decide

/-- Rows that stand apart have no word in common. -/
theorem not_hits_both_of_apart {r q : OpRow} (h : r.apart q = true) {w : Word} (hr : w &&& r.mask = r.pattern) :
    w &&& q.mask ≠ q.pattern := by
  intro hq
  simp only [OpRow.apart, bne_iff_ne, ne_eq, ← hr, ← hq] at h
  exact h (by ac_rfl)

/-- Two rows that a word hits are one row. -/
theorem row_unique {r q : OpRow} (hr : r ∈ opRows) (hq : q ∈ opRows) {w : Word} (hrw : w &&& r.mask = r.pattern)
    (hqw : w &&& q.mask = q.pattern) : r = q := by
  have : Std.Symm fun r q : OpRow => r.apart q = true := ⟨fun r q h => by rwa [OpRow.apart, bne_comm]⟩
  by_contra hne
  exact not_hits_both_of_apart (opRows_pairwise_apart.forall hr hq hne) hrw hqw

/-- What decodes, and to which commands. -/
theorem decode_eq_ok_iff {w : Word} {i : Instr} :
    decode w = .ok i ↔ ∃ r ∈ opRows, w &&& r.mask = r.pattern ∧ r.command w = i := by
  constructor
  · intro h
    unfold decode at h
    split at h
    · rename_i r hfind
      exact ⟨r, List.mem_of_find?_eq_some hfind, eq_of_beq (List.find?_some hfind :), by simpa using h⟩
    · cases h
  · rintro ⟨r, hr, hrw, rfl⟩
    unfold decode
    split
    · rename_i q hfind
      rw [row_unique (List.mem_of_find?_eq_some hfind) hr (eq_of_beq (List.find?_some hfind :)) hrw]
    · rename_i hnone
      exact absurd (beq_iff_eq.mpr hrw) (List.find?_eq_none.mp hnone r hr)

/-! ### The fields of an encoded command (R91) -/

section Fields

variable {op c b v imm : Nat}

theorem fieldC_cmdWord (hc : c < 16) (hb : b < 2) (hv : v < 8) (hi : imm < 2 ^ 16) :
    fieldC (cmdWord op c b v imm) = c := by
  rw [fieldC_eq, cmdWord, BitVec.toNat_ofNat]; omega

theorem fieldB_cmdWord {b : BufSel} (hv : v < 8) (hi : imm < 2 ^ 16) : fieldB (cmdWord op c b.bit v imm) = b := by
  have hb := bufSel_bit_lt b
  rw [← bufSel_bit_inj, fieldB_bit, cmdWord, BitVec.toNat_ofNat]; omega

theorem fieldV_cmdWord {v : OacVariant} (hi : imm < 2 ^ 16) : fieldV (cmdWord op c b v.bit imm) = v := by
  have hv := variant_bit_lt_two v
  rw [← variant_bit_inj, fieldV_bit, cmdWord, BitVec.toNat_ofNat]; omega

theorem fieldA_cmdWord (a : BitVec 16) : fieldA (cmdWord op c b v a.toNat) = a := by
  have ha := a.isLt
  rw [← BitVec.toNat_inj, fieldA_toNat, cmdWord, BitVec.toNat_ofNat]; omega

theorem fieldM_cmdWord (m : BitVec 6) : fieldM (cmdWord op c b v m.toNat) = m := by
  have hm := m.isLt
  rw [← BitVec.toNat_inj, fieldM_toNat, cmdWord, BitVec.toNat_ofNat]; omega

theorem fieldF_cmdWord {f l : Nat} (hf : f < 16) : fieldF (cmdWord op c b v (l * 2 ^ 8 + f)) = f := by
  rw [fieldF_eq, cmdWord, BitVec.toNat_ofNat]; omega

theorem fieldL_cmdWord {f l : Nat} (hf : f < 16) (hl : l < 16) :
    fieldL (cmdWord op c b v (l * 2 ^ 8 + f)) = l := by
  rw [fieldL_eq, cmdWord, BitVec.toNat_ofNat]; omega

end Fields

/-- The row of a command's name reads the command back from its encoding. -/
theorem exists_row_command_encode {i : Instr} (hi : i.wf = true) : ∃ r ∈ opRows, r.command (encode i) = i := by
  cases i with
  | nop => exact ⟨opRows[0], List.getElem_mem _, rfl⟩
  | prepare => exact ⟨opRows[1], List.getElem_mem _, rfl⟩
  | reset m => exact ⟨opRows[2], List.getElem_mem _, congrArg Instr.reset (fieldM_cmdWord m)⟩
  | wreg a => exact ⟨opRows[3], List.getElem_mem _, congrArg Instr.wreg (fieldA_cmdWord a)⟩
  | rreg a => exact ⟨opRows[4], List.getElem_mem _, congrArg Instr.rreg (fieldA_cmdWord a)⟩
  | ldblk c b =>
    exact ⟨opRows[5], List.getElem_mem _, congrArg₂ Instr.ldblk
      (fieldC_cmdWord (of_decide_eq_true hi) (bufSel_bit_lt b) (by decide) (by decide))
      (fieldB_cmdWord (by decide) (by decide))⟩
  | stblk c b =>
    exact ⟨opRows[6], List.getElem_mem _, congrArg₂ Instr.stblk
      (fieldC_cmdWord (of_decide_eq_true hi) (bufSel_bit_lt b) (by decide) (by decide))
      (fieldB_cmdWord (by decide) (by decide))⟩
  | lwsRun c b =>
    exact ⟨opRows[7], List.getElem_mem _, congrArg₂ Instr.lwsRun
      (fieldC_cmdWord (of_decide_eq_true hi) (bufSel_bit_lt b) (by decide) (by decide))
      (fieldB_cmdWord (by decide) (by decide))⟩
  | dwsRun c =>
    exact ⟨opRows[8], List.getElem_mem _, congrArg Instr.dwsRun
      (fieldC_cmdWord (of_decide_eq_true hi) (by decide) (by decide) (by decide))⟩
  | oacRun c b v =>
    exact ⟨opRows[9], List.getElem_mem _, (Instr.oacRun.injEq ..).mpr
      ⟨fieldC_cmdWord (of_decide_eq_true hi) (bufSel_bit_lt b) (variant_bit_lt v) (by decide),
        fieldB_cmdWord (variant_bit_lt v) (by decide), fieldV_cmdWord (by decide)⟩⟩
  | triRun c =>
    exact ⟨opRows[10], List.getElem_mem _, congrArg Instr.triRun
      (fieldC_cmdWord (of_decide_eq_true hi) (by decide) (by decide) (by decide))⟩
  | ovsUp c =>
    exact ⟨opRows[11], List.getElem_mem _, congrArg Instr.ovsUp
      (fieldC_cmdWord (of_decide_eq_true hi) (by decide) (by decide) (by decide))⟩
  | ovsDown c =>
    exact ⟨opRows[12], List.getElem_mem _, congrArg Instr.ovsDown
      (fieldC_cmdWord (of_decide_eq_true hi) (by decide) (by decide) (by decide))⟩
  | bqcRun c b f l =>
    simp only [Instr.wf, Bool.and_eq_true, decide_eq_true_eq] at hi
    obtain ⟨⟨hc, hf⟩, hl⟩ := hi
    exact ⟨opRows[13], List.getElem_mem _, (Instr.bqcRun.injEq ..).mpr
      ⟨fieldC_cmdWord hc (bufSel_bit_lt b) (by decide) (by omega), fieldB_cmdWord (by decide) (by omega),
        fieldF_cmdWord hf, fieldL_cmdWord hf hl⟩⟩

/-! ### The obligations -/

/-- Settles O3: the row that reads the command back is hit, for the word is the encoding of what it reads. -/
theorem decodeOfEncodeIsTheInstruction : Obligations.DecodeOfEncodeIsTheInstruction := by
  intro i hi
  obtain ⟨r, hr, hri⟩ := exists_row_command_encode hi
  exact decode_eq_ok_iff.mpr ⟨r, hr, (hits_iff_encode hr _).mpr (by rw [hri]), hri⟩

/-- Settles O2: the rows stand apart, so the first that the word hits is the only one. -/
theorem decodeTakesTheMatchingRow : Obligations.DecodeTakesTheMatchingRow := by
  intro w
  refine ⟨fun r hr hrw => decode_eq_ok_iff.mpr ⟨r, hr, hrw, rfl⟩, fun hmiss => ?_⟩
  cases h : decode w with
  | error e => exact ⟨e, rfl⟩
  | ok i =>
    obtain ⟨r, hr, hrw, -⟩ := decode_eq_ok_iff.mp h
    exact absurd hrw (hmiss r hr)

/-- Settles O4: the command is that of a row the word hits. -/
theorem decodedWordIsItsEncoding : Obligations.DecodedWordIsItsEncoding := by
  intro w i h
  obtain ⟨r, hr, hrw, rfl⟩ := decode_eq_ok_iff.mp h
  exact ⟨command_wf hr w, (hits_iff_encode hr w).mp hrw⟩

/-- Settles O1: each legal word is the encoding of its command, and the illegal words hit no row. -/
theorem decodeOfTheWorkedEncodings : Obligations.DecodeOfTheWorkedEncodings := by
  have legal : ∀ {w : Word} (i : Instr), encode i = w → i.wf = true → decode w = .ok i := fun i he hi =>
    he ▸ decodeOfEncodeIsTheInstruction i hi
  refine ⟨legal _ rfl rfl, legal _ rfl rfl, legal _ rfl rfl, legal _ rfl rfl, legal _ rfl rfl, legal _ rfl rfl,
    legal _ rfl rfl, legal _ rfl rfl, legal _ rfl rfl, legal _ rfl rfl, legal _ rfl rfl, legal _ rfl rfl,
    legal _ rfl rfl, legal _ rfl rfl, legal _ rfl rfl, legal _ rfl rfl, legal _ rfl rfl, legal _ rfl rfl,
    legal _ rfl rfl, legal _ rfl rfl, fun w hw => ?_⟩
  refine (decodeTakesTheMatchingRow w).2 ?_
  simp only [List.mem_cons, List.not_mem_nil, or_false] at hw
  rcases hw with rfl | rfl | rfl | rfl | rfl <;> decide

end Sys2Proof.Proofs

/-! PROOFS. The shell commands (spec R110 to R119) and bypass (R124, R125). In a block that is not faulted every command
is its checks, its words and its body (`exec_of_not_faulted`); each statement then asks for what the body does. -/

namespace Sys2Proof.Proofs

open Sys2Proof.Machine

/-! ### A command in a block that is not faulted (R110, R116, R212) -/

/-- While nothing is recorded `RREG` is treated as any other command (R110). -/
theorem readCommand_of_not_faulted {s : State} (hf : s.faulted = false) (check : Option FaultCode)
    (body : State → State) : readCommand check body s = command check 0 body s := by
  simp [readCommand, command, hf]

section

variable {i : Instr} {s : State}

theorem exec_of_not_faulted (i : Instr) (hf : s.faulted = false) :
    exec i s = command (firstFailing (checksOf Config.params s i)) (needOf s i) (bodyOf Config.params s i) s := by
  cases i
  case rreg a => rw [exec_rreg, readCommand_of_not_faulted hf]; rfl
  all_goals exact exec_command _ s nofun

theorem exec_runs (hf : s.faulted = false) (hchecks : firstFailing (checksOf Config.params s i) = none)
    (hneed : needOf s i ≤ s.din.length) : exec i s = .next (advance (bodyOf Config.params s i s)) := by
  rw [exec_of_not_faulted i hf, command_runs hf hchecks hneed]

theorem exec_waits (hf : s.faulted = false) (hchecks : firstFailing (checksOf Config.params s i) = none)
    (hshort : s.din.length < needOf s i) : exec i s = .fault .waitingForDin := by
  rw [exec_of_not_faulted i hf, command_waits hf hchecks hshort]

/-- The first failing check is recorded, and the word is counted (R212). -/
theorem exec_faults {code : FaultCode} (hf : s.faulted = false)
    (hcheck : firstFailing (checksOf Config.params s i) = some code) :
    exec i s = .next (advance (raiseFault code s)) := by
  rw [exec_of_not_faulted i hf, command_faults hf hcheck]

end

/-! ### The words a body takes from `din` (R116) -/

theorem writeReg_din (r : Reg) (w : Word) (s : State) : (writeReg r w s).din = s.din := by rw [writeReg_others]

/-- `WREG` of a mapped register takes its one word. -/
theorem wregBody_din {P : Params} {a : BitVec 16} (ha : (regAt P a).isSome = true) (s : State) :
    (wregBody P a s).din = s.din.drop 1 := by
  obtain ⟨r, hr⟩ := Option.isSome_iff_exists.mp ha
  cases hdin : s.din with
  | nil => simp [wregBody, hr, hdin]
  | cons w rest => simp [wregBody, hr, hdin, writeReg_din]

theorem writeCheck_mapped {P : Params} {a : BitVec 16} (h : writeCheck P a = none) : (regAt P a).isSome = true := by
  cases hr : regAt P a with
  | none => simp [writeCheck, hr] at h
  | some r => rfl

theorem rregBody_din (P : Params) (a : BitVec 16) (s : State) : (rregBody P a s).din = s.din := by
  unfold rregBody
  split <;> rfl

theorem processChannel_din (u : UnitId) (c : Nat) (job : Draw → Work → Work) (s : State) :
    (processChannel u c job s).din = s.din := by
  rw [processChannel_others]

/-- The body of a command whose checks pass takes exactly the words the command needs. -/
theorem bodyOf_din {P : Params} {i : Instr} {s : State} (h : firstFailing (checksOf P s i) = none) :
    (bodyOf P s i s).din = s.din.drop (needOf s i) := by
  cases i with
  | wreg a =>
    rw [writeChecks_firstFailing] at h
    exact wregBody_din (writeCheck_mapped h) s
  | rreg a => exact rregBody_din P a s
  | nop | prepare | reset | ldblk | stblk => rfl
  | lwsRun | dwsRun | oacRun | triRun | ovsUp | ovsDown | bqcRun => exact processChannel_din _ _ _ s

/-- Settles O10: a body leaves the record of a fault alone and takes the words needed. -/
theorem passedChecksCompleteOrWait : Obligations.PassedChecksCompleteOrWait := by
  intro i s hf hchecks
  refine ⟨fun hneed => ?_, exec_waits hf hchecks⟩
  obtain ⟨hfaulted, hfault, hfaultCc, -⟩ := (bodyOf_effect hchecks).record
  exact ⟨_, exec_runs hf hchecks hneed, hfaulted.trans hf, hfault, hfaultCc, bodyOf_din hchecks⟩

/-! ### The step (R110) -/

theorem takeCommand_cons {s : State} {w : Word} {rest : List Word} (h : s.cmds = w :: rest) :
    takeCommand s = some (w, { s with cmds := rest }) := by
  rw [takeCommand, h]

/-- Settles O7: the word at the head of the port is the one taken. -/
theorem stepRunsTheDecodedCommand : Obligations.StepRunsTheDecodedCommand := by
  intro s w rest i hcmds hdecode
  simp only [step, takeCommand_cons hcmds, hdecode]

/-! ### `NOP` (R111) -/

/-- `NOP` counts its word, executed or discarded. -/
theorem exec_nop (s : State) : exec .nop s = .next (advance s) := by
  cases hf : s.faulted with
  | false => exact command_runs hf rfl (Nat.zero_le _)
  | true => exact command_discards hf

/-- Settles O16: the faulted and the running block answer `NOP` alike. -/
theorem nopOnlyAdvancesTheCounter : Obligations.NopOnlyAdvancesTheCounter :=
  ⟨rfl, fun s => ⟨s.draws + 1, exec_nop s⟩⟩

/-! ### `RREG` (R53, R115) -/

theorem readCheck_passes {P : Params} {a : BitVec 16} {r : Reg} {s : State} (ha : regAt P a = some r)
    (hwindow : r.kind = .window → s.prepared = true ∧ s.chsel.toNat < s.actNch.toNat) : readCheck P s a = none := by
  by_cases hk : r.kind = .window
  · obtain ⟨hprepared, hchannel⟩ := hwindow hk
    simp [readCheck, ha, hprepared, Nat.not_le.mpr hchannel]
  · simp [readCheck, ha, hk]

theorem rregBody_mapped {P : Params} {a : BitVec 16} {r : Reg} (ha : regAt P a = some r) (s : State) :
    rregBody P a s = pushDout [readReg P s r] s := by
  simp [rregBody, ha]

/-- Settles O22: with its checks passed `RREG` runs in the faulted state too. -/
theorem rregPushesTheRegister : Obligations.RregPushesTheRegister := by
  intro a r s ha hwindow
  have hrun : exec (.rreg a) s = .next (advance (rregBody Config.params a s)) :=
    readCommand_runs (readCheck_passes ha hwindow)
  rw [hrun, rregBody_mapped ha]
  exact ⟨s.draws + 1, rfl⟩

/-! ### `PREPARE` (R112, R218) -/

theorem sameUnitState_refl (ch : Channel) : SameUnitState ch ch := ⟨rfl, rfl, rfl, rfl⟩

/-- No cell of a channel is written right after hardware reset (R240). -/
theorem reset_buf (b : BufSel) : Channel.reset.buf b = [] := by cases b <;> rfl

theorem configCheck_rejected {P : Params} {s : State} (h : ¬ ConfigAccepted P s) :
    configCheck P s = some .badConfig := by
  rw [← validConfig_iff] at h
  exact if_neg h

/-- `PREPARE` derives the high rate, and the constants by the formulas of R152, R162 and R173 (R112). -/
theorem prepareBody_fsProc (P : Params) (s : State) :
    (prepareBody P s).fsProc = fmul (0 :: s.drawKey) s.cfgSr (numOf s.cfgOsf.toNat) := rfl

theorem prepareBody_dk_derived (P : Params) (s : State) : DerivedDws P (prepareBody P s).fsProc (prepareBody P s).dk :=
  deriveDws_derived P (1 :: s.drawKey) _

theorem prepareBody_ok_derived (P : Params) (s : State) : DerivedOac P (prepareBody P s).ok :=
  deriveOac_derived P (2 :: s.drawKey)

theorem prepareBody_tk_derived (P : Params) (s : State) : DerivedTri P (prepareBody P s).fsProc (prepareBody P s).tk :=
  deriveTri_derived P (3 :: s.drawKey) _

/-- `PREPARE` records in `NF` a derived value that is not finite, and never clears it (R218). -/
theorem prepareBody_nf_iff (P : Params) (s : State) :
    (prepareBody P s).nf = true ↔ s.nf = true ∨ allFinite (derivedValues (prepareBody P s)) = false := by
  have hnf : (prepareBody P s).nf = (s.nf || !allFinite (derivedValues (prepareBody P s))) := rfl
  rw [hnf, Bool.or_eq_true, Bool.not_eq_true']

/-- Every section is the identity after `PREPARE` (R47, R112). -/
theorem prepareBody_bq (P : Params) (s : State) (j : Fin 16) : (prepareBody P s).bq[j] = Biquad.identity := by
  have hbq : (prepareBody P s).bq = Vector.replicate 16 Biquad.identity := rfl
  rw [hbq, Fin.getElem_fin, Vector.getElem_replicate]

/-- Settles O17: the constants stand in the relations of their rules, and every channel is as after hardware reset. -/
theorem prepareLatchesDerivesAndResets : Obligations.PrepareLatchesDerivesAndResets := by
  intro s hf
  refine ⟨fun hconfig => ?_, fun hconfig => ?_⟩
  · have hrun : exec .prepare s = .next (advance (prepareBody Config.params s)) :=
      command_runs hf ((configCheck_none _ s).mpr hconfig) (Nat.zero_le _)
    have hchan : ∀ c, (advance (prepareBody Config.params s)).chan c = Channel.reset := prepareBody_chan _ s
    refine ⟨_, hrun, rfl, ⟨0 :: s.drawKey, prepareBody_fsProc Config.params s⟩,
      prepareBody_dk_derived Config.params s, prepareBody_ok_derived Config.params s,
      prepareBody_tk_derived Config.params s, prepareBody_nf_iff Config.params s, prepareBody_bq Config.params s,
      fun c => ?_, fun c b i => ?_⟩
    · rw [hchan]; exact sameUnitState_refl _
    · rw [hchan, reset_buf, memGet_nil]
  · exact ⟨s.draws + 1, command_faults hf (configCheck_rejected hconfig)⟩

/-! ### `RESET` (R94, R113) -/

theorem encode_reset (m : BitVec 6) : encode (.reset m) = 0x02000000#32 + m.setWidth 32 := by
  apply BitVec.eq_of_toNat_eq
  rw [encode, Laws.cmdWord_toNat (by decide) (by decide) (by decide) (by decide) (by omega), BitVec.toNat_add,
    BitVec.toNat_setWidth, BitVec.toNat_ofNat]
  omega

/-- A stage's history cells after `RESET` (R113). -/
theorem resetChannel_history (m : BitVec 6) (ch : Channel) (i : Fin 2) (k : Fin 32) :
    (((resetChannel m ch).ovs[i]).uph[k] = if m.getLsbD 4 then posZero else (ch.ovs[i]).uph[k]) ∧
    (((resetChannel m ch).ovs[i]).dne[k] = if m.getLsbD 4 then posZero else (ch.ovs[i]).dne[k]) ∧
    (((resetChannel m ch).ovs[i]).dno[k] = if m.getLsbD 4 then posZero else (ch.ovs[i]).dno[k]) := by
  cases hm : m.getLsbD 4 with
  | false => rw [resetChannel_ovs_kept hm]; exact ⟨rfl, rfl, rfl⟩
  | true => rw [resetChannel_ovs_selected hm]; simp [OvsStage.reset]

/-- A section's state cell after `RESET` (R113). -/
theorem resetChannel_section (m : BitVec 6) (ch : Channel) (j : Fin 16) (g : BsField) :
    ((resetChannel m ch).bs[j]).get g = if m.getLsbD 5 then posZero else (ch.bs[j]).get g := by
  cases hm : m.getLsbD 5 with
  | false => rw [resetChannel_bs_kept hm]; rfl
  | true =>
    rw [resetChannel_bs_selected hm, Fin.getElem_fin, Vector.getElem_replicate]
    cases g <;> rfl

theorem preparedCheck_fails {s : State} (h : s.prepared = false) : preparedCheck s = some .notPrepared := by
  simp [preparedCheck, h]

/-- Settles O20, channel by channel. -/
theorem resetClearsTheSelectedUnits : Obligations.ResetClearsTheSelectedUnits := by
  intro m s hf
  refine ⟨encode_reset m, fun hprepared => ?_, fun hprepared => ?_⟩
  · have hrun : exec (.reset m) s = .next (advance (resetUnits m s)) :=
      command_runs hf ((preparedCheck_none s).mpr hprepared) (Nat.zero_le _)
    refine ⟨_, hrun, rfl, fun c => ?_⟩
    rw [advance_chan, resetUnits_chan]
    exact ⟨rfl, rfl, rfl, rfl, resetChannel_history m _, resetChannel_section m _⟩
  · exact ⟨s.draws + 1, command_faults hf (preparedCheck_fails hprepared)⟩

/-! ### `LDBLK` (R117, R119) -/

/-- The channel `LDBLK` has loaded. -/
theorem ldblkBody_chan_same (s : State) {c : Nat} (b : BufSel) (hc : c < 16) :
    (ldblkBody c b s).chan c
      = (s.chan c).setBuf b (memSetFrom ((s.chan c).buf b) 0 (s.din.take (lenOf s b))) := by
  rw [ldblkBody, dropDin_chan, chan_setChan_same s c _ hc, dinWords]

theorem ldblkBody_chan_other (s : State) {c e : Nat} (b : BufSel) (he : e ≠ c) :
    (ldblkBody c b s).chan e = s.chan e := by
  rw [ldblkBody, dropDin_chan, chan_setChan_other s c e _ he]

theorem otherBuf_ne (b : BufSel) : otherBuf b ≠ b := by cases b <;> exact nofun

/-- The buffers of the channel that `LDBLK` has loaded. -/
theorem ldblkBody_block {s : State} {c : Nat} {b : BufSel} (hc : c < 16) (hdin : lenOf s b ≤ s.din.length) :
    BlockHolds s (ldblkBody c b s) c b (lenOf s b) (fun i => s.din.getD i posZero) where
  written i hi := by
    have hi' : i < s.din.length := by omega
    have hholds := (holdsBlock_ldblkBody hc hdin).cells i (by rw [List.length_take]; omega)
    rw [advance_chan] at hholds
    rw [hholds, List.getElem?_take_of_lt hi, List.getElem?_eq_getElem hi', List.getD_eq_getElem _ _ hi']
  beyond i hi := by
    rw [ldblkBody_chan_same s b hc, setBuf_buf_same, memGet_memSetFrom, List.length_take_of_le hdin,
      if_neg (by omega)]
  otherBuffer := by
    rw [ldblkBody_chan_same s b hc, setBuf_buf_other _ _ (otherBuf_ne b)]

/-- Settles O25: cell by cell of the channel, and every other channel as it was. -/
theorem ldblkFillsTheBuffer : Obligations.LdblkFillsTheBuffer := by
  intro c b s h hc hdin
  have hblock := ldblkBody_block hc hdin
  refine ⟨_, exec_ldblk_runs h hdin, rfl, ⟨hblock.written, hblock.beyond, hblock.otherBuffer⟩, ?_,
    fun e he => ?_⟩
  · rw [advance_chan, ldblkBody_chan_same s b hc]
    exact ⟨setBuf_dsV _ _ _, setBuf_ts _ _ _, setBuf_ovs _ _ _, setBuf_bs _ _ _⟩
  · rw [advance_chan, ldblkBody_chan_other s b he]

/-! ### Bypass (R124, R125) -/

/-- A processing command needs no words of `din`. -/
theorem needOf_of_unit {i : Instr} {u : UnitId} (hu : unitOf i = some u) (s : State) : needOf s i = 0 := by
  cases i
  case wreg | ldblk => cases hu
  all_goals rfl

/-- The body of a bypassed unit's command changes nothing (R124). -/
theorem bodyOf_bypassed {P : Params} {i : Instr} {u : UnitId} {s : State} (hu : unitOf i = some u)
    (hb : bypassed s u = true) : bodyOf P s i s = s := by
  cases i
  case lwsRun | dwsRun | oacRun | triRun | ovsUp | ovsDown | bqcRun =>
    cases hu
    simp only [bodyOf, runUnit, upBlock, downBlock, processChannel_bypassed hb]
  all_goals cases hu

/-- Settles O28: bypass touches the body of the command and not its checks. -/
theorem bypassedUnitIsANop : Obligations.BypassedUnitIsANop := by
  intro i u s hu hb hf
  refine ⟨fun hchecks => ?_, fun code hcheck => ⟨s.draws + 1, exec_faults hf hcheck⟩⟩
  rw [exec_runs hf hchecks (needOf_of_unit hu s ▸ Nat.zero_le _), bodyOf_bypassed hu hb, exec_nop]

end Sys2Proof.Proofs

/-! PROOFS. Unit LWS (spec R140 to R147). `omega` is one of two values, and the test between them is a comparison of
rationals (`flt_omegaT_fabs_iff`). A unit whose samples leave the channel alone leaves only its buffer changed
(`Stateless`), which is how a whole block of omegas is treated. -/

namespace Sys2Proof.Proofs

open Sys2Proof.Machine

/-! ### The range of the polynomial (R36, R141) -/

theorem numValue_fabs (a : Num32) : numValue (fabs a) = |numValue a| := by
  have hunits : |(signedUnits a : ℚ)| = units a := by
    unfold signedUnits
    split <;> simp
  have hfabs : (signedUnits (fabs a) : ℚ) = units a := by
    rw [signedUnits, signOf_fabs, units_eq, magOf_fabs, ← units_eq]
    simp
  rw [numValue, numValue, abs_div, hunits, hfabs, abs_of_pos (by positivity : (0 : ℚ) < 2 ^ 149)]

theorem numValue_omegaT : numValue omegaT = 3 / 2 := by
  have hunits : signedUnits omegaT = 3 * 2 ^ 148 := by decide
  rw [numValue, hunits]
  norm_num

theorem fabs_of_isInf {x : Num32} (h : isInf x = true) : fabs x = infinity false := by
  have hlt : 0x7F800000 < 2 ^ 31 := by decide
  apply eq_of_sign_mag
  · rw [signOf_fabs, infinity, signOf_pack _ hlt]
  · rw [magOf_fabs, (isInf_iff x).mp h, infinity, magOf_pack _ hlt]

theorem flt_omegaT_fabs_of_nan {x : Num32} (h : isNan x = true) : flt omegaT (fabs x) = false :=
  (comparisons_nan (.inr (by rwa [isNan_fabs]))).1

/-- The outer approximant is taken by the infinities and by the finite numbers above 3/2 in magnitude, and by no NaN. -/
theorem flt_omegaT_fabs_iff (x : Num32) :
    flt omegaT (fabs x) = true ↔ isInf x = true ∨ (finite x = true ∧ 3 / 2 < |numValue x|) := by
  by_cases hf : finite x = true
  · rw [flt_finite (by decide) (by rwa [finite_fabs]), numValue_omegaT, numValue_fabs]
    simp [hf, finite_not_inf hf]
  · by_cases hi : isInf x = true
    · have hbelow : flt omegaT (infinity false) = true := by decide
      simp [fabs_of_isInf hi, hbelow, hi]
    · have hn : isNan x = true := by
        rw [finite_iff_not] at hf
        simpa [hi] using hf
      simp [flt_omegaT_fabs_of_nan hn, hf, hi]

/-! ### The two values of omega (R141, R142) -/

section

variable {P : Params} {x : Num32}

theorem omega_inner (h : flt omegaT (fabs x) = false) (d : Draw) : omega P d x = omegaPoly P (1 :: d) x :=
  if_neg (ne_true_of_eq_false h)

theorem omega_outer (h : flt omegaT (fabs x) = true) (d : Draw) : SameNum (omega P d x) (P.omegaExt x) := by
  rw [omega, if_pos h]
  exact redrawNan_same _ _

theorem omega_horner (h : flt omegaT (fabs x) = false) (d : Draw) : HornerValue P x (omega P d x) := by
  rw [omega_inner h]
  exact omegaPoly_horner P _ x

theorem hornerStep_nan (h : isNan x = true) (d : Draw) (t p : Num32) : isNan (hornerStep d x t p) = true :=
  fadd_nan _ (.inl (fmul_nan _ (.inr h)))

end

/-- Settles O31: the test of R141 says which of the two values `omega` takes. -/
theorem omegaBranchesAtOneAndAHalf : Obligations.OmegaBranchesAtOneAndAHalf := by
  intro P d x
  refine ⟨fun hn => ?_, fun hn => omega_horner (flt_omegaT_fabs_of_nan hn) d, fun hf hle => ?_, fun h => ?_⟩
  · rw [omega_inner (flt_omegaT_fabs_of_nan hn)]
    exact hornerStep_nan hn _ _ _
  · refine omega_horner (Bool.eq_false_iff.mpr fun hflt => ?_) d
    rcases (flt_omegaT_fabs_iff x).mp hflt with hi | ⟨-, hgt⟩
    · exact absurd hi (ne_true_of_eq_false (finite_not_inf hf))
    · exact absurd hgt (not_lt.mpr hle)
  · exact omega_outer ((flt_omegaT_fabs_iff x).mpr h) d

/-! ### omega of a zero (R142) -/

section

variable {x t p : Num32}

theorem fmul_isZero (d : Draw) (ht : finite t = true) (hx : isZero x = true) : isZero (fmul d t x) = true := by
  rw [fmul_zero d ht hx]
  exact isZero_zeroOf _

theorem hornerStep_zero (d : Draw) (hx : isZero x = true) (ht : finite t = true) (hn : isNan p = false)
    (hz : isZero p = false) : hornerStep d x t p = p :=
  zero_fadd _ (fmul_isZero _ ht hx) hn hz

theorem hornerStep_zero_finite (d : Draw) (hx : isZero x = true) (ht : finite t = true) (hp : finite p = true) :
    finite (hornerStep d x t p) = true := by
  cases hz : isZero p
  · rwa [hornerStep_zero d hx ht (finite_not_nan hp) hz]
  · rw [hornerStep, fadd_zeros _ (fmul_isZero _ ht hx) hz]
    exact zero_finite (isZero_zeroOf _)

theorem flt_omegaT_fabs_of_zero (hx : isZero x = true) : flt omegaT (fabs x) = false := by
  rw [Bool.eq_false_iff, ne_eq, flt_omegaT_fabs_iff, numValue_zero hx, finite_not_inf (zero_finite hx)]
  norm_num

end

/-- Settles O30: the intermediate values of Horner's rule stay finite, so the last step adds a zero to `OMEGA_P[0]`. -/
theorem omegaOfZeroIsTheConstantTerm : Obligations.OmegaOfZeroIsTheConstantTerm := by
  intro P d x hx hz hn h1 h2 h3 h4 h5
  rw [omega_inner (flt_omegaT_fabs_of_zero hx)]
  have ht4 := hornerStep_zero_finite (4 :: 1 :: d) hx h5 h4
  have ht3 := hornerStep_zero_finite (3 :: 1 :: d) hx ht4 h3
  have ht2 := hornerStep_zero_finite (2 :: 1 :: d) hx ht3 h2
  have ht1 := hornerStep_zero_finite (1 :: 1 :: d) hx ht2 h1
  exact hornerStep_zero (0 :: 1 :: d) hx ht1 hn hz

/-! ### A unit without state cells (R83, R121) -/

theorem sameUnitState_trans {a b c : Channel} (h : SameUnitState a b) (g : SameUnitState b c) : SameUnitState a c :=
  ⟨g.dsV.trans h.dsV, g.ts.trans h.ts, g.ovs.trans h.ovs, g.bs.trans h.bs⟩

theorem sameUnitState_write (ch : Channel) (b : BufSel) (i : Nat) (v : Num32) : SameUnitState ch (ch.write b i v) :=
  ⟨write_dsV ch b i v, write_ts ch b i v, write_ovs ch b i v, write_bs ch b i v⟩

/-- The samples of the unit leave the channel alone, and so write no state cell that could fail to be finite. -/
structure Stateless (f : Draw → Channel → Num32 → Sampled) : Prop where
  channel : ∀ d ch x, (f d ch x).ch = ch
  stateFinite : ∀ d ch x, (f d ch x).stateFinite = true

theorem lwsSample_stateless (P : Params) : Stateless (lwsSample P) := ⟨fun _ _ _ => rfl, fun _ _ _ => rfl⟩

section

variable {f : Draw → Channel → Num32 → Sampled} (b : BufSel)

theorem Stateless.keepsBuffers (hf : Stateless f) : KeepsBuffers f := fun d ch x => by
  rw [hf.channel]
  exact ⟨rfl, rfl⟩

theorem Stateless.runBlock_state (hf : Stateless f) (d : Draw) (w : Work) (n : Nat) :
    SameUnitState w.ch (runBlock b f d n w).ch := by
  induction n with
  | zero => exact sameUnitState_refl _
  | succ n ih =>
    rw [runBlock_succ_ch hf.keepsBuffers, turn, hf.channel]
    exact sameUnitState_trans ih (sameUnitState_write _ b n _)

variable {s : State} {c : Nat} {u : UnitId}

theorem Stateless.runUnit_state (hf : Stateless f) (h : RunsOn s c u) :
    SameUnitState (s.chan c) ((advance (runUnit u c b f s)).chan c) := by
  rw [(runUnit_runs h b f).2.1]
  exact hf.runBlock_state b _ ⟨s.chan c, s.nf⟩ _

/-- Only an output can set `NF` (R218). -/
theorem Stateless.runUnit_flag (hf : Stateless f) (h : RunsOn s c u) :
    FlagRecords s (advance (runUnit u c b f s))
      (fun v => ∃ i, i < lenOf s b ∧ v = (turn b f s.drawKey ⟨s.chan c, s.nf⟩ i).y) := by
  have hstate : ∀ i, (turn b f s.drawKey ⟨s.chan c, s.nf⟩ i).stateFinite = true := fun _ => hf.stateFinite _ _ _
  rw [FlagRecords, runUnit_nf h b hf.keepsBuffers]
  simp only [hstate, Bool.and_true]
  refine or_congr_right ⟨fun ⟨i, hi, hy⟩ => ⟨_, ⟨i, hi, rfl⟩, hy⟩, ?_⟩
  rintro ⟨_, ⟨i, hi, rfl⟩, hy⟩
  exact ⟨i, hi, hy⟩

end

/-! ### `LWS.RUN` (R146) -/

theorem exec_lwsRun_runs {s : State} {c : Nat} (h : ReadyFor s c) (b : BufSel) :
    exec (.lwsRun c b) s = .next (advance (runUnit .lws c b (lwsSample Config.params) s)) :=
  exec_runs h.running ((blockChecks_firstFailing s c).trans h.check) (Nat.zero_le _)

/-- Settles O29: output i is the omega of cell i as it was before the loop. -/
theorem lwsRunAppliesOmega : Obligations.LwsRunAppliesOmega := by
  intro c b s h
  have hf := lwsSample_stateless Config.params
  exact ⟨_, _, exec_lwsRun_runs h.toReadyFor b, fun _ => omega_value _ _ _, runUnit_block h b hf.keepsBuffers,
    hf.runUnit_state b h, (runUnit_runs h b _).1, hf.runUnit_flag b h⟩

end Sys2Proof.Proofs

/-! PROOFS. Unit DWS (spec R150 to R156). The loop over the block carries one number from sample to sample, the state
`DS_V` (`diodeState`); every turn writes the next one into its cell and into the state. `DwsRunLeaves` says so of a whole
command on any instance, and both obligations read their facts off it. -/

namespace Sys2Proof.Proofs

open Sys2Proof.Machine

/-! ### The state before each turn of the loop (R153) -/

section

variable (P : Params) (k : DwsConsts) (d : Draw) (w : Work)

/-- `DS_V` after n turns of the diode's loop over `BUFHI`. -/
def diodeState (n : Nat) : Num32 := (runBlock .hi (dwsSample P k) d n w).ch.dsV

/-- Output and new state are one value. -/
theorem turn_dwsSample_y (i : Nat) : (turn .hi (dwsSample P k) d w i).y = diodeState P k d w (i + 1) := by
  rw [diodeState, runBlock_succ_ch (dwsSample_keeps P k), write_dsV]
  rfl

theorem turn_dwsSample_stateFinite (i : Nat) :
    (turn .hi (dwsSample P k) d w i).stateFinite = finite (diodeState P k d w (i + 1)) := by
  rw [← turn_dwsSample_y]
  rfl

theorem diodeState_succ_sample (i : Nat) :
    DiodeSample P k (diodeState P k d w i) (w.ch.read d .hi i) (diodeState P k d w (i + 1)) := by
  rw [← turn_dwsSample_y]
  exact dwsNext_sample P k (i :: d) _ _

/-- The loop changes `DS_V` and `BUFHI`, and no other part of the channel (R83). -/
theorem runBlock_dwsSample_ch (n : Nat) :
    (runBlock .hi (dwsSample P k) d n w).ch
      = { w.ch with dsV := diodeState P k d w n, bufHi := (runBlock .hi (dwsSample P k) d n w).ch.bufHi } := by
  unfold diodeState
  induction n with
  | zero => rfl
  | succ n ih =>
    rw [runBlock_succ_ch (dwsSample_keeps P k), turn, ih]
    rfl

end

/-! ### What the command leaves (R121, R153, R218) -/

/-- t is what `DWS.RUN c` leaves of s, when the recursion goes through the values v. -/
structure DwsRunLeaves (P : Params) (c : Nat) (s t : State) (v : Nat → Num32) : Prop where
  start : v 0 = (s.chan c).dsV
  samples : ∀ i, DiodeSample P s.dk (v i) ((s.chan c).read s.drawKey .hi i) (v (i + 1))
  block : BlockHolds s t c .hi (lenOf s .hi) (fun i => v (i + 1))
  channel : t.chan c = { s.chan c with dsV := v (lenOf s .hi), bufHi := (t.chan c).bufHi }
  frame : ProcessFrame s t c
  flag : FlagRecords s t (fun x => ∃ i, i < lenOf s .hi ∧ x = v (i + 1))

section

variable {P : Params} {c : Nat} {s t : State}

theorem dwsRunOn_runs (h : ReadyFor s c) :
    dwsRunOn P c s = .next (advance (runUnit .dws c .hi (dwsSample P s.dk) s)) :=
  command_runs h.running h.check (Nat.zero_le _)

theorem runUnit_dwsSample_leaves (h : RunsOn s c .dws) :
    DwsRunLeaves P c s (advance (runUnit .dws c .hi (dwsSample P s.dk) s))
      (diodeState P s.dk s.drawKey ⟨s.chan c, s.nf⟩) := by
  obtain ⟨hframe, hchan, -⟩ := runUnit_runs h .hi (dwsSample P s.dk)
  have hkeeps := dwsSample_keeps P s.dk
  have hturn := turn_dwsSample_y P s.dk s.drawKey ⟨s.chan c, s.nf⟩
  refine ⟨rfl, diodeState_succ_sample _ _ _ _, ?block, ?channel, hframe, ?flag⟩
  case block => simpa only [hturn] using runUnit_block h .hi hkeeps
  case channel =>
    rw [hchan]
    exact runBlock_dwsSample_ch ..
  case flag =>
    rw [FlagRecords, runUnit_nf h .hi hkeeps]
    simp only [turn_dwsSample_stateFinite, hturn, Bool.and_self]
    refine or_congr_right ⟨fun ⟨i, hi, hy⟩ => ⟨_, ⟨i, hi, rfl⟩, hy⟩, ?_⟩
    rintro ⟨_, ⟨i, hi, rfl⟩, hy⟩
    exact ⟨i, hi, hy⟩

end

/-- Settles O32: the sequence is the one of the states the loop goes through. -/
theorem dwsRunIteratesTheDiode : Obligations.DwsRunIteratesTheDiode := by
  intro c s h
  have hl := runUnit_dwsSample_leaves (P := Config.params) h
  exact ⟨_, _, dwsRunOn_runs h.toReadyFor, hl.start, hl.samples, hl.block, hl.channel, hl.frame, hl.flag⟩

/-! ### Silence (R154, R155) -/

section

variable {P : Params} {c : Nat} {s t : State} {v : Nat → Num32}

/-- Over a block of zeros the recursion does not leave +0.0. -/
theorem DwsRunLeaves.rest (hl : DwsRunLeaves P c s t v) (ha : finite s.dk.a = true) (hb : finite s.dk.b = true)
    (h0 : (s.chan c).dsV = posZero)
    (hu : ∀ i, i < lenOf s .hi → isZero ((s.chan c).read s.drawKey .hi i) = true) :
    ∀ i, i ≤ lenOf s .hi → v i = posZero := by
  intro i
  induction i with
  | zero => exact fun _ => hl.start.trans h0
  | succ i ih =>
    intro hi
    have hsample := hl.samples i
    rw [ih (by omega)] at hsample
    exact diodeSample_rest ha hb (hu i hi) hsample

/-- A command that writes finite values only leaves `NF` alone (R218). -/
theorem nf_eq_of_flagRecords {wrote : Num32 → Prop} (h : FlagRecords s t wrote) (hw : ∀ x, wrote x → finite x = true) :
    t.nf = s.nf := by
  refine Bool.eq_iff_iff.mpr (h.trans (or_iff_left ?_))
  rintro ⟨x, hx, hfin⟩
  exact absurd (hw x hx) (ne_true_of_eq_false hfin)

end

/-- Settles O33: +0.0 is a rest state of the recursion under zeros of either sign, and it is finite. -/
theorem dwsSilenceStaysSilent : Obligations.DwsSilenceStaysSilent := by
  intro P c s h ha hb h0 hzeros
  have hl := runUnit_dwsSample_leaves (P := P) h
  have hrest := hl.rest ha hb h0 fun i hi => by
    obtain ⟨x, hx, hzero⟩ := hzeros i hi
    rwa [read_of_written (b := .hi) hx]
  refine ⟨_, dwsRunOn_runs h.toReadyFor, ⟨fun i hi => ?_, hl.block.beyond, hl.block.otherBuffer⟩, ?_, hl.frame, ?_⟩
  · rw [hl.block.written i hi, hrest (i + 1) hi]
  · rw [hl.channel, hrest _ le_rfl, ← h0]
  · refine nf_eq_of_flagRecords hl.flag ?_
    rintro _ ⟨i, hi, rfl⟩
    rw [hrest (i + 1) hi]
    decide

end Sys2Proof.Proofs

/-! PROOFS. Unit OAC (spec R160 to R168). The tanh variant ends in a clamp, read in rationals: an infinity too has a
value, above every finite one (`numValue_lt_infinity`), so `fmin` and `fmax` are `min` and `max` of values for all
operands but NaNs. The knee variant ends in `signed`, which alone decides zeros and NaNs. -/

namespace Sys2Proof.Proofs

open Sys2Proof.Machine

/-! ### `OAC.RUN` (R161, R163) -/

theorem oacSample_stateless (P : Params) (k : OacConsts) (v : OacVariant) : Stateless (oacSample P k v) :=
  ⟨fun _ _ _ => rfl, fun _ _ _ => rfl⟩

theorem exec_oacRun_runs {s : State} {c : Nat} (h : ReadyFor s c) (b : BufSel) (v : OacVariant) :
    exec (.oacRun c b v) s = .next (advance (runUnit .oac c b (oacSample Config.params s.ok v) s)) :=
  exec_runs h.running ((blockChecks_firstFailing s c).trans h.check) (Nat.zero_le _)

/-- Settles O34: output i is the variant's value of cell i as it was before the loop. -/
theorem oacRunAppliesTheVariant : Obligations.OacRunAppliesTheVariant := by
  intro c b v s h
  have hf := oacSample_stateless Config.params s.ok v
  exact ⟨_, _, exec_oacRun_runs h.toReadyFor b v, fun _ => oacValue_sample _ _ _ _ _,
    runUnit_block h b hf.keepsBuffers, hf.runUnit_state b h, (runUnit_runs h b _).1, hf.runUnit_flag b h⟩

/-! ### Minimum and maximum of values (R12) -/

section

variable {a b : Num32}

/-- The comparison is that of the values for the infinities too. -/
theorem flt_not_nan (ha : isNan a = false) (hb : isNan b = false) : flt a b = true ↔ numValue a < numValue b := by
  simp [flt, ha, hb, numValue_lt_iff]

theorem isNan_fmin (ha : isNan a = false) (hb : isNan b = false) : isNan (fmin a b) = false := by
  unfold fmin
  split <;> assumption

theorem isNan_fmax (ha : isNan a = false) (hb : isNan b = false) : isNan (fmax a b) = false := by
  unfold fmax
  split <;> assumption

theorem numValue_fmin (ha : isNan a = false) (hb : isNan b = false) :
    numValue (fmin a b) = min (numValue a) (numValue b) := by
  rw [min_comm, min_def_lt, fmin, apply_ite numValue]
  simp only [flt_not_nan hb ha]

theorem numValue_fmax (ha : isNan a = false) (hb : isNan b = false) :
    numValue (fmax a b) = max (numValue a) (numValue b) := by
  rw [max_def_lt, fmax, apply_ite numValue]
  simp only [flt_not_nan ha hb]

/-- A NaN in the first operand is returned. -/
theorem fmin_nan (ha : isNan a = true) (b : Num32) : fmin a b = a :=
  if_neg (ne_true_of_eq_false (comparisons_nan (.inr ha)).1)

theorem fmax_nan (ha : isNan a = true) (b : Num32) : fmax a b = a :=
  if_neg (ne_true_of_eq_false (comparisons_nan (.inl ha)).1)

/-! ### The clamp between the rails (R163) -/

theorem numValue_lt_infinity (ha : finite a = true) : numValue a < numValue (infinity false) := by
  have hinf : signedUnits (infinity false) = 2 ^ 277 := by decide +kernel
  have hlt := units_lt ha
  rw [numValue_lt_iff, hinf, signedUnits]
  split <;> omega

/-- What is no larger in magnitude than a finite number is no infinity. -/
theorem finite_of_abs_le (ha : isNan a = false) (hb : finite b = true) (hle : |numValue a| ≤ numValue b) :
    finite a = true := by
  refine finite_of_not ha (Bool.eq_false_iff.mpr fun hinf => ?_)
  rw [← numValue_fabs, fabs_of_isInf hinf] at hle
  exact absurd (numValue_lt_infinity hb) (not_lt.mpr hle)

theorem posNum_value_pos (p : PosNum32) : 0 < numValue p.num := by
  have h := (flt_finite (by decide) (posNum_finite p)).mp (posNum_positive p)
  rwa [numValue_zero (by decide)] at h

variable {t r : Num32}

/-- A NaN goes through the clamp; anything else, an infinity included, ends between -r and r. -/
theorem clamp_within (hr : finite r = true) (hnonneg : 0 ≤ numValue r) :
    isNan (fmax (fmin t r) (fneg r)) = true ∨
    (finite (fmax (fmin t r) (fneg r)) = true ∧ |numValue (fmax (fmin t r) (fneg r))| ≤ numValue r) := by
  cases ht : isNan t
  · have hrn := finite_not_nan hr
    have hlower : isNan (fneg r) = false := by rwa [isNan_fneg]
    have hmin := isNan_fmin ht hrn
    have hbound : |numValue (fmax (fmin t r) (fneg r))| ≤ numValue r := by
      rw [numValue_fmax hmin hlower, numValue_fmin ht hrn, numValue_fneg]
      exact abs_le.mpr ⟨le_max_right _ _, max_le (min_le_right _ _) (neg_le_self hnonneg)⟩
    exact .inr ⟨finite_of_abs_le (isNan_fmax hmin hlower) hr hbound, hbound⟩
  · rw [fmin_nan ht, fmax_nan ht]
    exact .inl ht

end

/-- Settles O35: the variant ends in the clamp, and `OC_VRAIL` is a positive finite number by its type. -/
theorem tanhVariantStaysWithinTheRails : Obligations.TanhVariantStaysWithinTheRails := fun P _ _ _ =>
  clamp_within (posNum_finite P.ocVrail) (posNum_value_pos P.ocVrail).le

/-! ### Zeros and NaNs at the knee (R165) -/

/-- Settles O36: `signed` answers a zero or a NaN in its first operand before it looks at the clipped magnitude. -/
theorem kneeVariantAtZeroAndNan : Obligations.KneeVariantAtZeroAndNan := fun _ _ _ _ =>
  ⟨fun hzero => fsigned_zero hzero _, fun hnan => fsigned_nan hnan _⟩

end Sys2Proof.Proofs

/-! PROOFS. Unit TRI (spec R170 to R179). The loop over the block carries the three cells of the channel from sample to
sample (`triodeState`), and `TriRunLeaves` says what a whole command leaves, whatever the parameters. Silence rests on
two facts. The rules fix the solver's current up to the pattern of a NaN, whatever the sign of a zero e0
(`junctionCurrent_unique`), so the sample at rest solves to `TK_I0` bit for bit. The constants of R173 have their sign
bits clear (`NotMinus`), so every later zero is +0.0. -/

namespace Sys2Proof.Proofs

open Sys2Proof.Machine

/-! ### The cells before each turn of the loop (R176) -/

section

variable (P : Params) (k : TriConsts) (d : Draw) (w : Work)

/-- The three cells after n turns of the triode's loop over `BUFHI`. -/
def triodeState (n : Nat) : TriState := (runBlock .hi (triSample P k) d n w).ch.ts

/-- The output of turn i of the loop. -/
def triodeOutput (i : Nat) : Num32 := (turn .hi (triSample P k) d w i).y

theorem turn_triSample_ts (i : Nat) : (turn .hi (triSample P k) d w i).ch.ts = triodeState P k d w (i + 1) := by
  rw [triodeState, runBlock_succ_ch (triSample_keeps P k), write_ts]

theorem turn_triSample_stateFinite (i : Nat) :
    (turn .hi (triSample P k) d w i).stateFinite = allFinite (triodeState P k d w (i + 1)).values := by
  rw [← turn_triSample_ts]
  rfl

theorem triodeState_succ_sample (i : Nat) :
    TriodeSample P k (triodeState P k d w i) (w.ch.read d .hi i) (triodeState P k d w (i + 1))
      (triodeOutput P k d w i) := by
  rw [← turn_triSample_ts]
  exact triNext_sample P k (i :: d) _ _

/-- The loop changes the three cells and `BUFHI`, and no other part of the channel (R83). -/
theorem runBlock_triSample_ch (n : Nat) :
    (runBlock .hi (triSample P k) d n w).ch
      = { w.ch with ts := triodeState P k d w n, bufHi := (runBlock .hi (triSample P k) d n w).ch.bufHi } := by
  unfold triodeState
  induction n with
  | zero => rfl
  | succ n ih =>
    rw [runBlock_succ_ch (triSample_keeps P k), turn, ih]
    rfl

end

/-! ### What the command leaves (R121, R176, R218) -/

/-- t is what `TRI.RUN c` leaves of s, when the recursion goes through the cells st and gives the outputs y. -/
structure TriRunLeaves (P : Params) (c : Nat) (s t : State) (st : Nat → TriState) (y : Nat → Num32) : Prop where
  start : st 0 = (s.chan c).ts
  samples : ∀ i, TriodeSample P s.tk (st i) ((s.chan c).read s.drawKey .hi i) (st (i + 1)) (y i)
  block : BlockHolds s t c .hi (lenOf s .hi) y
  channel : t.chan c = { s.chan c with ts := st (lenOf s .hi), bufHi := (t.chan c).bufHi }
  frame : ProcessFrame s t c
  flag : FlagRecords s t (fun x => ∃ i, i < lenOf s .hi ∧ (x = y i ∨ x ∈ (st (i + 1)).values))

section

variable {P : Params} {c : Nat} {s : State}

theorem triRunOn_runs (h : ReadyFor s c) :
    triRunOn P c s = .next (advance (runUnit .tri c .hi (triSample P s.tk) s)) :=
  command_runs h.running h.check (Nat.zero_le _)

/-- A turn sets `NF` for its output or for one of the cells it writes. -/
theorem finite_and_allFinite_eq_false (y : Num32) (vs : List Num32) :
    (finite y && allFinite vs) = false ↔ ∃ x, (x = y ∨ x ∈ vs) ∧ finite x = false := by
  rw [Bool.and_eq_false_iff, allFinite, List.all_eq_false]
  simp [or_and_right, exists_or]

theorem runUnit_triSample_leaves (h : RunsOn s c .tri) :
    TriRunLeaves P c s (advance (runUnit .tri c .hi (triSample P s.tk) s))
      (triodeState P s.tk s.drawKey ⟨s.chan c, s.nf⟩) (triodeOutput P s.tk s.drawKey ⟨s.chan c, s.nf⟩) := by
  obtain ⟨hframe, hchan, -⟩ := runUnit_runs h .hi (triSample P s.tk)
  have hkeeps := triSample_keeps P s.tk
  refine ⟨rfl, triodeState_succ_sample _ _ _ _, runUnit_block h .hi hkeeps, ?channel, hframe, ?flag⟩
  case channel =>
    rw [hchan]
    exact runBlock_triSample_ch ..
  case flag =>
    rw [FlagRecords, runUnit_nf h .hi hkeeps]
    simp only [turn_triSample_stateFinite, finite_and_allFinite_eq_false]
    refine or_congr_right ⟨fun ⟨i, hi, x, hx, hfin⟩ => ⟨x, ⟨i, hi, hx⟩, hfin⟩, ?_⟩
    rintro ⟨x, ⟨i, hi, hx⟩, hfin⟩
    exact ⟨i, hi, x, hx, hfin⟩

end

/-- Settles O37: the sequences are the cells the loop goes through and the outputs of its turns. -/
theorem triRunIteratesTheTriode : Obligations.TriRunIteratesTheTriode := by
  intro c s h
  have hl := runUnit_triSample_leaves (P := Config.params) h
  exact ⟨_, _, _, triRunOn_runs h.toReadyFor, hl.start, hl.samples, hl.block, hl.channel, hl.frame, hl.flag⟩

/-! ### The guard of the solver (R174) -/

section

variable {P : Params} {dpk rpk i j : Num32}

/-- A sum is below zero with its first operand when the second is a zero, whatever the first: a NaN, a zero or an
infinity included. -/
theorem flt_fadd_zero_negative (d : Draw) (a : Num32) {b : Num32} (hb : isZero b = true) :
    flt (fadd d a b) posZero = flt a posZero := by
  cases hn : isNan a
  · cases hz : isZero a
    · rw [fadd_zero d hn hz hb]
    · rw [fadd_zeros d hz hb, flt_negative, flt_negative, isZero_zeroOf, hz]
      simp
  · rw [(comparisons_nan (.inl hn)).1, (comparisons_nan (.inl (fadd_nan d (.inl hn)))).1]

/-- The guard leaves the current alone when dpk is a NaN. -/
theorem guardedCurrent_of_nan (h : GuardedCurrent P dpk rpk i j) (hn : isNan dpk = true) : j = i := by
  obtain ⟨e, -, hkeep⟩ := h
  exact hkeep (comparisons_nan (.inl (fsub_nan _ (.inl hn)))).1

/-- In cutoff the guard looks at the sign of dpk. -/
theorem guardedCurrent_cutoff (h : GuardedCurrent P dpk rpk posZero j) (hr : finite rpk = true) :
    (flt dpk posZero = true → ∃ d1 d2, j = guarded P d1 d2 dpk rpk) ∧ (flt dpk posZero = false → j = posZero) := by
  obtain ⟨e, hclamp, hkeep⟩ := h
  have hdrop : isZero (fneg (fmul (e 1) rpk posZero)) = true := by
    rw [isZero_fneg]
    exact fmul_isZero _ hr (by decide)
  rw [fsub_eq, flt_fadd_zero_negative _ _ hdrop] at hclamp hkeep
  exact ⟨fun hneg => ⟨_, _, hclamp hneg⟩, hkeep⟩

end

/-- Settles O38: the solver's result is what the guard makes of its branch's current. -/
theorem triSolverBranches : Obligations.TriSolverBranches := by
  intro P d e0 dpk rt rpk
  have hguard := triSolve_guarded P d e0 dpk rt rpk
  have hcutoff : flt posZero e0 = false → GuardedCurrent P dpk rpk posZero (triSolve P d e0 dpk rt rpk) := fun he =>
    triCurrent_cutoff he (0 :: d) rt ▸ hguard
  exact ⟨fun he => ⟨_, triCurrent_conducting he _ rt, hguard, guardedCurrent_of_nan hguard⟩,
    fun he => ⟨hcutoff he, guardedCurrent_of_nan (hcutoff he)⟩,
    fun he hpos _ hr => (guardedCurrent_cutoff (hcutoff he) hr).2 hpos,
    fun he hneg hr => (guardedCurrent_cutoff (hcutoff he) hr).1 hneg⟩

/-! ### The rules fix a current up to the pattern of a NaN (R11, R174) -/

section

variable {P : Params} {a a' b b' : Num32}

theorem sameNum_orNan (d d' : Draw) (r : Option Num32) : SameNum (orNan d r) (orNan d' r) := by
  cases r with
  | none => exact .inr ⟨orNan_none d, orNan_none d'⟩
  | some y => exact .inl rfl

/-- A two-operand operation uses its draw for the pattern of a NaN alone, and hands NaN operands on as NaNs (R11). -/
structure DrawsNansOnly (op : Draw → Num32 → Num32 → Num32) (result : Num32 → Num32 → Option Num32) : Prop where
  eq_orNan : ∀ d a b, op d a b = orNan d (result a b)
  nan : ∀ d {a b}, isNan a = true ∨ isNan b = true → isNan (op d a b) = true

theorem drawsNansOnly_fadd : DrawsNansOnly fadd add? := ⟨fun _ _ _ => rfl, fadd_nan⟩

theorem drawsNansOnly_fsub : DrawsNansOnly fsub fun a b => add? a (fneg b) := ⟨fun _ _ _ => rfl, fsub_nan⟩

theorem drawsNansOnly_fmul : DrawsNansOnly fmul mul? := ⟨fun _ _ _ => rfl, fmul_nan⟩

theorem drawsNansOnly_fdiv : DrawsNansOnly fdiv div? := ⟨fun _ _ _ => rfl, fdiv_nan⟩

theorem DrawsNansOnly.sameNum {op : Draw → Num32 → Num32 → Num32} {result : Num32 → Num32 → Option Num32}
    (h : DrawsNansOnly op result) (d d' : Draw) (ha : SameNum a a') (hb : SameNum b b') :
    SameNum (op d a b) (op d' a' b') := by
  rcases ha with rfl | ⟨han, han'⟩
  · rcases hb with rfl | ⟨hbn, hbn'⟩
    · rw [h.eq_orNan, h.eq_orNan]
      exact sameNum_orNan d d' _
    · exact .inr ⟨h.nan d (.inr hbn), h.nan d' (.inr hbn')⟩
  · exact .inr ⟨h.nan d (.inl han), h.nan d' (.inl han')⟩

theorem sameNum_fadd (d d' : Draw) : SameNum a a' → SameNum b b' → SameNum (fadd d a b) (fadd d' a' b') :=
  drawsNansOnly_fadd.sameNum d d'

theorem sameNum_fsub (d d' : Draw) : SameNum a a' → SameNum b b' → SameNum (fsub d a b) (fsub d' a' b') :=
  drawsNansOnly_fsub.sameNum d d'

theorem sameNum_fmul (d d' : Draw) : SameNum a a' → SameNum b b' → SameNum (fmul d a b) (fmul d' a' b') :=
  drawsNansOnly_fmul.sameNum d d'

theorem sameNum_guarded (d e d' e' : Draw) (ha : SameNum a a') (hb : SameNum b b') :
    SameNum (guarded P d e a b) (guarded P d' e' a' b') :=
  drawsNansOnly_fdiv.sameNum d d' ha (sameNum_fadd e e' hb (sameNum_refl _))

theorem sameNum_fsqrt (d d' : Draw) (ha : SameNum a a') : SameNum (fsqrt d a) (fsqrt d' a') := by
  rcases ha with rfl | ⟨han, han'⟩
  · exact sameNum_orNan _ _ _
  · exact .inr ⟨fsqrt_nan _ han, fsqrt_nan _ han'⟩

theorem flt_negative_of_sameNum (h : SameNum a a') : flt a posZero = flt a' posZero := by
  rcases h with rfl | ⟨hn, hn'⟩
  · rfl
  · rw [(comparisons_nan (.inl hn)).1, (comparisons_nan (.inl hn')).1]

/-- Finite numbers that are the same have the same bits. -/
theorem eq_of_sameNum_finite (h : SameNum a b) (hb : finite b = true) : a = b :=
  h.resolve_right fun hn => absurd hn.2 (ne_true_of_eq_false (finite_not_nan hb))

/-- The same number, or two zeros of any signs. -/
def SameButZeroSign (a b : Num32) : Prop := SameNum a b ∨ (isZero a = true ∧ isZero b = true)

theorem sameButZeroSign_fadd (d d' : Draw) (ha : SameButZeroSign a a') (hb : SameNum b b') :
    SameButZeroSign (fadd d a b) (fadd d' a' b') := by
  rcases ha with hsame | ⟨hz, hz'⟩
  · exact .inl (sameNum_fadd d d' hsame hb)
  · rcases hb with rfl | ⟨hbn, hbn'⟩
    · cases hbn : isNan b
      · cases hbz : isZero b
        · exact .inl (.inl (by rw [zero_fadd d hz hbn hbz, zero_fadd d' hz' hbn hbz]))
        · rw [fadd_zeros d hz hbz, fadd_zeros d' hz' hbz]
          exact .inr ⟨isZero_zeroOf _, isZero_zeroOf _⟩
      · exact .inl (.inr ⟨fadd_nan _ (.inr hbn), fadd_nan _ (.inr hbn)⟩)
    · exact .inl (.inr ⟨fadd_nan _ (.inr hbn), fadd_nan _ (.inr hbn')⟩)

/-- Where the sign of a zero and the pattern of a NaN do not count: on the cutoff side of the solver. -/
theorem eq_or_cutoff_of_sameButZeroSign (h : SameButZeroSign a a') :
    a = a' ∨ (flt posZero a = false ∧ flt posZero a' = false) := by
  rcases h with (heq | ⟨hn, hn'⟩) | ⟨hz, hz'⟩
  · exact .inl heq
  · exact .inr ⟨(comparisons_nan (.inr hn)).1, (comparisons_nan (.inr hn')).1⟩
  · simp [flt_posZero, hz, hz']

end

section

variable {P : Params} {e0 e0' dpk dpk' rt rpk i i' j j' : Num32}

theorem conductingCurrent_unique (h : ConductingCurrent P e0 rt i) (h' : ConductingCurrent P e0 rt i') :
    SameNum i i' := by
  obtain ⟨e, rfl⟩ := h
  obtain ⟨e', rfl⟩ := h'
  have hr := sameNum_refl
  have hg := sameNum_fmul (e 0) (e' 0) (sameNum_fmul (e 1) (e' 1) (hr P.tcK.num) (hr rt)) (hr e0)
  have hdouble := sameNum_fmul (e 4) (e' 4) (hr numTwo) (hr P.tcK.num)
  have hn := sameNum_fmul (e 2) (e' 2) (sameNum_fmul (e 3) (e' 3) hdouble (hr e0)) (hr e0)
  have hlinear := sameNum_fadd (e 8) (e' 8) (sameNum_fmul (e 9) (e' 9) (hr numTwo) hg) (hr numOne)
  have hsquare := sameNum_fadd (e 11) (e' 11) (sameNum_fmul (e 12) (e' 12) (hr numFour) hg) (hr numOne)
  exact sameNum_guarded _ _ _ _ hn (sameNum_fadd _ _ hlinear (sameNum_fsqrt _ _ hsquare))

theorem guardedCurrent_unique (hdpk : SameNum dpk dpk') (hi : SameNum i i') (h : GuardedCurrent P dpk rpk i j)
    (h' : GuardedCurrent P dpk' rpk i' j') : SameNum j j' := by
  obtain ⟨e, hclamp, hkeep⟩ := h
  obtain ⟨e', hclamp', hkeep'⟩ := h'
  have hdrop := sameNum_fmul (e 1) (e' 1) (sameNum_refl rpk) hi
  have hvpk := flt_negative_of_sameNum (sameNum_fsub (e 0) (e' 0) hdpk hdrop)
  cases hneg : flt (fsub (e' 0) dpk' (fmul (e' 1) rpk i')) posZero
  · rw [hkeep (hvpk.trans hneg), hkeep' hneg]
    exact hi
  · rw [hclamp (hvpk.trans hneg), hclamp' hneg]
    exact sameNum_guarded _ _ _ _ hdpk (sameNum_refl rpk)

/-- The solver's result depends neither on the draws nor on the sign of a zero e0. -/
theorem junctionCurrent_unique (he : SameButZeroSign e0 e0') (hdpk : SameNum dpk dpk')
    (h : JunctionCurrent P e0 dpk rt rpk j) (h' : JunctionCurrent P e0' dpk' rt rpk j') : SameNum j j' := by
  obtain ⟨i, hcond, hcut, hguard⟩ := h
  obtain ⟨i', hcond', hcut', hguard'⟩ := h'
  refine guardedCurrent_unique hdpk ?_ hguard hguard'
  rcases eq_or_cutoff_of_sameButZeroSign he with rfl | ⟨hoff, hoff'⟩
  · cases hon : flt posZero e0
    · exact .inl ((hcut hon).trans (hcut' hon).symm)
    · exact conductingCurrent_unique (hcond hon) (hcond' hon)
  · exact .inl ((hcut hoff).trans (hcut' hoff').symm)

end

/-! ### The signs of the derived constants (R173) -/

/-- A NaN or a number whose sign bit is clear. -/
def NotMinus (a : Num32) : Prop := isNan a = true ∨ signOf a = false

section

variable {P : Params} {a b : Num32}

theorem notMinus_of_positive (h : flt posZero a = true) : NotMinus a := by
  have hclass : (isNan a = false ∧ isZero a = false) ∧ signOf a = false := by simpa [flt_posZero] using h
  exact .inr hclass.2

theorem notMinus_posNum (p : PosNum32) : NotMinus p.num := notMinus_of_positive (posNum_positive p)

theorem notMinus_orNan (d : Draw) {r : Option Num32} (h : ∀ y ∈ r, signOf y = false) : NotMinus (orNan d r) := by
  cases r with
  | none => exact .inl (orNan_none d)
  | some y => exact .inr (h y rfl)

theorem DrawsNansOnly.notMinus {op : Draw → Num32 → Num32 → Num32} {result : Num32 → Num32 → Option Num32}
    (h : DrawsNansOnly op result)
    (hsign : ∀ {a b}, signOf a = false → signOf b = false → ∀ y ∈ result a b, signOf y = false) (d : Draw)
    (ha : NotMinus a) (hb : NotMinus b) : NotMinus (op d a b) := by
  rcases ha with ha | ha
  · exact .inl (h.nan d (.inl ha))
  · rcases hb with hb | hb
    · exact .inl (h.nan d (.inr hb))
    · rw [h.eq_orNan]
      exact notMinus_orNan d (hsign ha hb)

theorem signOf_infinity (s : Bool) : signOf (infinity s) = s := signOf_pack s (by decide)

theorem signOf_pack_roundMag (s : Bool) (n d : Nat) : signOf (pack s (roundMag n d)) = s :=
  signOf_pack s (roundMag_lt n d)

theorem add?_signOf (ha : signOf a = false) (hb : signOf b = false) : ∀ y ∈ add? a b, signOf y = false := by
  have hsum : ¬ (units a : Int) + units b < 0 := by omega
  unfold add?
  split_ifs <;> simp [ha, hb, signOf_zeroOf, roundUnits, signOf_pack_roundMag, signedUnits, hsum]

theorem mul?_signOf (ha : signOf a = false) (hb : signOf b = false) : ∀ y ∈ mul? a b, signOf y = false := by
  unfold mul?
  dsimp only
  split_ifs <;> simp [ha, hb, signOf_infinity, signOf_pack_roundMag]

theorem div?_signOf (ha : signOf a = false) (hb : signOf b = false) : ∀ y ∈ div? a b, signOf y = false := by
  unfold div?
  dsimp only
  split_ifs <;> simp [ha, hb, signOf_infinity, signOf_zeroOf, signOf_pack_roundMag]

theorem sqrt?_signOf (ha : signOf a = false) : ∀ y ∈ sqrt? a, signOf y = false := by
  unfold sqrt?
  dsimp only
  split_ifs <;> simp [ha, signOf_pack_roundMag]

theorem notMinus_fadd (d : Draw) : NotMinus a → NotMinus b → NotMinus (fadd d a b) :=
  drawsNansOnly_fadd.notMinus add?_signOf d

theorem notMinus_fmul (d : Draw) : NotMinus a → NotMinus b → NotMinus (fmul d a b) :=
  drawsNansOnly_fmul.notMinus mul?_signOf d

theorem notMinus_guarded (d e : Draw) (ha : NotMinus a) (hb : NotMinus b) : NotMinus (guarded P d e a b) :=
  drawsNansOnly_fdiv.notMinus div?_signOf d ha (notMinus_fadd e hb (notMinus_posNum P.eps))

theorem notMinus_fsqrt (d : Draw) (ha : NotMinus a) : NotMinus (fsqrt d a) := by
  rcases ha with ha | ha
  · exact .inl (fsqrt_nan d ha)
  · exact notMinus_orNan d (sqrt?_signOf ha)

theorem isZero_roundUnits {z : Int} (hz : z ≠ 0) : isZero (roundUnits z) = false := by
  obtain ⟨shift, k, hmag, -, hk, -, -, hnear, -⟩ := roundMag_spec z.natAbs (d := 1) Nat.one_pos
  have hpos : roundMag z.natAbs 1 ≠ 0 := by
    intro h0
    obtain ⟨rfl, rfl⟩ : shift = 0 ∧ k = 0 := by omega
    omega
  rw [← Bool.not_eq_true, isZero_iff, roundUnits, magOf_pack _ (roundMag_lt _ _)]
  exact hpos

theorem add?_signOf_of_isZero (ha : signOf a = false) :
    ∀ y ∈ add? a b, isZero y = true → signOf y = false := by
  have hinf := inf_not_zero (a := a)
  have hinf' := inf_not_zero (a := b)
  unfold add?
  split_ifs <;> simp_all [signOf_zeroOf, isZero_roundUnits]

/-- Cancellation gives +0.0, so a sum is -0.0 only where both operands are (log 11). -/
theorem signOf_fadd_of_isZero (d : Draw) (ha : NotMinus a) (hz : isZero (fadd d a b) = true) :
    signOf (fadd d a b) = false := by
  have hnan := finite_not_nan (zero_finite hz)
  have hsign := ha.resolve_left fun han => absurd (fadd_nan d (.inl han)) (ne_true_of_eq_false hnan)
  unfold fadd at hz hnan ⊢
  cases hr : add? a b with
  | none => exact absurd (hr ▸ orNan_none d) (ne_true_of_eq_false hnan)
  | some y =>
    rw [hr, orNan_some] at hz
    exact add?_signOf_of_isZero hsign y hr hz

end

section

variable {P : Params} {e0 dpk rt rpk i j : Num32}

theorem conductingCurrent_notMinus (h : ConductingCurrent P e0 rt i) (he : NotMinus e0) (hrt : NotMinus rt) :
    NotMinus i := by
  obtain ⟨e, rfl⟩ := h
  have htwo : NotMinus numTwo := .inr (by decide)
  have hone : NotMinus numOne := .inr (by decide)
  have hfour : NotMinus numFour := .inr (by decide)
  have hk := notMinus_posNum P.tcK
  have hg := notMinus_fmul (e 0) (notMinus_fmul (e 1) hk hrt) he
  have hn := notMinus_fmul (e 2) (notMinus_fmul (e 3) (notMinus_fmul (e 4) htwo hk) he) he
  have hlinear := notMinus_fadd (e 8) (notMinus_fmul (e 9) htwo hg) hone
  have hsquare := notMinus_fadd (e 11) (notMinus_fmul (e 12) hfour hg) hone
  exact notMinus_guarded _ _ hn (notMinus_fadd _ hlinear (notMinus_fsqrt _ hsquare))

theorem junctionCurrent_notMinus (h : JunctionCurrent P e0 dpk rt rpk j) (hdpk : NotMinus dpk) (hrt : NotMinus rt)
    (hrpk : NotMinus rpk) : NotMinus j := by
  obtain ⟨i, hcond, hcut, e, hclamp, hkeep⟩ := h
  have hi : NotMinus i := by
    cases he : flt posZero e0
    · exact .inr (by rw [hcut he]; decide)
    · exact conductingCurrent_notMinus (hcond he) (notMinus_of_positive he) hrt
  cases hneg : flt (fsub (e 0) dpk (fmul (e 1) rpk i)) posZero
  · rwa [hkeep hneg]
  · rw [hclamp hneg]
    exact notMinus_guarded _ _ hdpk hrpk

end

/-- The signs silence rests on: `TK_AP0` may be below zero, but it is not -0.0. -/
structure TriSigns (k : TriConsts) : Prop where
  kg : NotMinus k.kg
  kk : NotMinus k.kk
  r0k : NotMinus k.r0k
  r0p : NotMinus k.r0p
  kps : NotMinus k.kps
  ko : NotMinus k.ko
  kso : NotMinus k.kso
  ak0 : NotMinus k.ak0
  ap0 : isZero k.ap0 = true → signOf k.ap0 = false

theorem derivedTri_signs {P : Params} {fs : Num32} {k : TriConsts} (h : DerivedTri P fs k) (hfs : NotMinus fs) :
    TriSigns k := by
  obtain ⟨e, hkg, hkk, hr0k, hr0p, hkps, hko, hkso, himu, -, -, hidc, hsk0, -, hak0, hap0, -⟩ := h
  have hpos := notMinus_posNum
  have htwo : NotMinus numTwo := .inr (by decide)
  have hone : NotMinus numOne := .inr (by decide)
  have htf := notMinus_fmul (e 0) htwo hfs
  have hxg := notMinus_fmul (e 1) (notMinus_fmul (e 2) htf (hpos P.tcRg)) (hpos P.tcCi)
  have hxk := notMinus_fmul (e 3) (notMinus_fmul (e 4) htf (hpos P.tcRk)) (hpos P.tcCk)
  have hrco := notMinus_guarded (P := P) (e 6) (e 7) hone (notMinus_fmul (e 5) htf (hpos P.tcCo))
  have hrs := notMinus_fadd (e 8) (hpos P.tcRo) hrco
  have hrpk0 := notMinus_fadd (e 12) (hpos P.tcRp) (hpos P.tcRk)
  have kg : NotMinus k.kg := hkg ▸ notMinus_guarded _ _ hxg (notMinus_fadd _ hxg hone)
  have kk : NotMinus k.kk := hkk ▸ notMinus_guarded _ _ hxk (notMinus_fadd _ hxk hone)
  have r0k : NotMinus k.r0k := hr0k ▸ notMinus_guarded _ _ (hpos P.tcRk) (notMinus_fadd _ hxk hone)
  have r0p : NotMinus k.r0p :=
    hr0p ▸ notMinus_guarded _ _ (notMinus_fmul _ (hpos P.tcRp) hrs) (notMinus_fadd _ (hpos P.tcRp) hrs)
  have kps : NotMinus k.kps := hkps ▸ notMinus_guarded _ _ r0p hrs
  have ko : NotMinus k.ko := hko ▸ notMinus_guarded _ _ (hpos P.tcRo) hrs
  have kso : NotMinus k.kso := hkso ▸ notMinus_guarded _ _ (notMinus_fmul _ htwo hrco) hrs
  have imu : NotMinus k.imu := himu ▸ notMinus_guarded _ _ hone (hpos P.tcMu)
  have idc : NotMinus k.idc := junctionCurrent_notMinus hidc (hpos P.tcVb)
    (notMinus_fadd _ (hpos P.tcRk) (notMinus_fmul _ hrpk0 imu)) hrpk0
  have sk0 : NotMinus k.sk0 := hsk0 ▸ notMinus_fmul _ (hpos P.tcRk) idc
  have ak0 : NotMinus k.ak0 := hak0 ▸ notMinus_fmul _ kk sk0
  have kpb := notMinus_fmul (e 9) (notMinus_guarded (P := P) (e 10) (e 11) r0p (hpos P.tcRp)) (hpos P.tcVb)
  have ap0 : isZero k.ap0 = true → signOf k.ap0 = false := by
    rw [hap0]
    exact signOf_fadd_of_isZero _ kpb
  exact ⟨kg, kk, r0k, r0p, kps, ko, kso, ak0, ap0⟩

/-! ### Silence (R178) -/

section

variable {u k : Num32}

theorem signOf_of_notMinus_finite (hk : NotMinus k) (hfin : finite k = true) : signOf k = false :=
  hk.resolve_left (ne_true_of_eq_false (finite_not_nan hfin))

/-- A constant with its sign bit clear keeps a zero as it is. -/
theorem fmul_zero_of_notMinus (d : Draw) (hk : NotMinus k) (hfin : finite k = true) (hu : isZero u = true) :
    fmul d k u = u := by
  rw [fmul_zero d hfin hu, signOf_of_notMinus_finite hk hfin, Bool.false_bne, ← zero_eq hu]

theorem fsub_posZero_of_isZero (d : Draw) (hu : isZero u = true) : fsub d u posZero = u := by
  rw [fsub_eq, fadd_zeros d hu (by decide), show signOf (fneg posZero) = true by decide, Bool.and_true, ← zero_eq hu]

/-- +0.0 added to a number that is not -0.0 does not change it. -/
theorem fadd_posZero (d : Draw) (hfin : finite u = true) (hsign : isZero u = true → signOf u = false) :
    fadd d u posZero = u := by
  cases hz : isZero u
  · exact fadd_zero d (finite_not_nan hfin) hz (by decide)
  · rw [eq_posZero hz (hsign hz)]
    exact fadd_zeros d (by decide) (by decide)

end

/-- The current at rest is `TK_I0`: dpk is formed by the same operations, and e0 too but for the sign of a zero. -/
theorem derivedTri_current_rest {P : Params} {fs u cur : Num32} {k : TriConsts} {d₁ d₂ d₃ d₄ : Draw}
    (hk : DerivedTri P fs k) (hi0 : finite k.i0 = true) (hu : isZero u = true)
    (h : JunctionCurrent P (fadd d₁ (fsub d₂ u k.ak0) (fmul d₃ (fsub d₄ k.ap0 k.ak0) k.imu)) (fsub d₄ k.ap0 k.ak0)
      k.rt k.rpk cur) : cur = k.i0 := by
  obtain ⟨e, -, -, -, -, -, -, -, -, -, -, -, -, -, -, -, hsolved⟩ := hk
  have hdpk : SameNum (fsub d₄ k.ap0 k.ak0) (fsub (e 15) k.ap0 k.ak0) := sameNum_orNan _ _ _
  have hgrid : SameButZeroSign (fsub d₂ u k.ak0) (fsub (e 49) posZero k.ak0) :=
    sameButZeroSign_fadd _ _ (.inr ⟨hu, by decide⟩) (sameNum_refl _)
  have he0 := sameButZeroSign_fadd d₁ (e 48) hgrid (sameNum_fmul d₃ (e 50) hdpk (sameNum_refl k.imu))
  exact eq_of_sameNum_finite (junctionCurrent_unique he0 hdpk h hsolved) hi0

/-- +0.0 in the three cells is a rest state of the recursion under zeros of either sign. -/
theorem triodeSample_rest {P : Params} {fs u y : Num32} {k : TriConsts} {t : TriState} (hk : DerivedTri P fs k)
    (hfs : NotMinus fs) (hfin : allFinite k.values = true) (hu : isZero u = true)
    (h : TriodeSample P k TriState.reset u t y) : t = TriState.reset ∧ y = posZero := by
  obtain ⟨kg, kk, r0k, r0p, kps, ko, kso, ak0, ap0⟩ := derivedTri_signs hk hfs
  simp only [allFinite, TriConsts.values, List.all_cons, List.all_nil, Bool.and_eq_true] at hfin
  obtain ⟨fkg, fkk, fr0k, fap0, fkps, fr0p, fko, fkso, -, -, -, -, -, -, fak0, fi0, -⟩ := hfin
  obtain ⟨e, cur, hcur, hy, hsi, hsk, hso⟩ := h
  have hmul : ∀ d {c}, NotMinus c → finite c = true → fmul d c posZero = posZero := fun d _ hc hf =>
    fmul_zero_of_notMinus d hc hf (by decide)
  have hmulTwo : ∀ d, fmul d numTwo posZero = posZero := fun d => hmul d (.inr (by decide)) (by decide)
  have hadd : ∀ d, fadd d posZero posZero = posZero := fun d => fadd_posZero d (by decide) (by decide)
  have hsub : ∀ d, fsub d posZero posZero = posZero := fun d => fsub_self d (by decide)
  have hag : ∀ d d', fmul d k.kg (fsub d' u posZero) = u := fun d d' => by
    rw [fsub_posZero_of_isZero d' hu, fmul_zero_of_notMinus d kg fkg hu]
  have hak : ∀ d, fadd d k.ak0 posZero = k.ak0 := fun d =>
    fadd_posZero d fak0 fun _ => signOf_of_notMinus_finite ak0 fak0
  have hap : ∀ d, fadd d k.ap0 posZero = k.ap0 := fun d => fadd_posZero d fap0 ap0
  simp only [TriState.reset, hmul _ kk fkk, hmul _ kps fkps, hag, hak, hap] at hcur hy hsi hsk hso
  have hdi : ∀ d, fsub d cur k.i0 = posZero := fun d => by
    rw [derivedTri_current_rest hk fi0 hu hcur, fsub_self d fi0]
  simp only [hdi, hmul _ r0k fr0k, hmul _ r0p fr0p, hmul _ ko fko, hmul _ kso fkso, hmulTwo, hadd, hsub,
    fsub_self _ (zero_finite hu)] at hy hsi hsk hso
  refine ⟨?_, hy⟩
  cases t
  simp only at hsi hsk hso
  rw [hsi, hsk, hso, TriState.reset]

section

variable {P : Params} {c : Nat} {s t : State} {st : Nat → TriState} {y : Nat → Num32} {fs : Num32}

/-- Over a block of zeros the cells do not leave +0.0, and every output is +0.0. -/
theorem TriRunLeaves.rest (hl : TriRunLeaves P c s t st y) (hk : DerivedTri P fs s.tk) (hfs : NotMinus fs)
    (hfin : allFinite s.tk.values = true) (h0 : (s.chan c).ts = TriState.reset)
    (hu : ∀ i, i < lenOf s .hi → isZero ((s.chan c).read s.drawKey .hi i) = true) :
    (∀ i, i ≤ lenOf s .hi → st i = TriState.reset) ∧ ∀ i, i < lenOf s .hi → y i = posZero := by
  have hturn : ∀ i, i < lenOf s .hi → st i = TriState.reset → st (i + 1) = TriState.reset ∧ y i = posZero :=
    fun i hi hst => triodeSample_rest hk hfs hfin (hu i hi) (hst ▸ hl.samples i)
  have hcells : ∀ i, i ≤ lenOf s .hi → st i = TriState.reset := by
    intro i
    induction i with
    | zero => exact fun _ => hl.start.trans h0
    | succ i ih => exact fun hi => (hturn i hi (ih (by omega))).1
  exact ⟨hcells, fun i hi => (hturn i hi (hcells i hi.le)).2⟩

end

/-- Settles O39: +0.0 is a rest state of the recursion, where the sample solves to `TK_I0`. -/
theorem triSilenceFromRestIsSilence : Obligations.TriSilenceFromRestIsSilence := by
  intro P c s d fs h hk _ hpos hfin h0 hzeros
  have hl := runUnit_triSample_leaves (P := P) h
  have hderived : DerivedTri P fs s.tk := hk ▸ deriveTri_derived P d fs
  have hu : ∀ i, i < lenOf s .hi → isZero ((s.chan c).read s.drawKey .hi i) = true := fun i hi => by
    obtain ⟨x, hx, hzero⟩ := hzeros i hi
    rwa [read_of_written (b := .hi) hx]
  obtain ⟨hrest, hsilent⟩ := hl.rest hderived (notMinus_of_positive hpos) hfin h0 hu
  refine ⟨_, triRunOn_runs h.toReadyFor, ⟨fun i hi => ?_, hl.block.beyond, hl.block.otherBuffer⟩, ?_, hl.frame, ?_⟩
  · rw [hl.block.written i hi, hsilent i hi]
  · rw [hl.channel, hrest _ le_rfl, TriState.reset, ← h0]
  · refine nf_eq_of_flagRecords hl.flag ?_
    rintro x ⟨i, hi, hx⟩
    rw [hsilent i hi, hrest (i + 1) hi] at hx
    have hxz : x = posZero := by simpa [TriState.values, TriState.reset] using hx
    rw [hxz]
    decide

end Sys2Proof.Proofs

/-! PROOFS. Unit OVS (spec R185 to R196). A step of one stage meets its equations (`up2_stage`, `down2_stage`) and leaves
the other alone (`StageFrame`), so the cascade is read off stage by stage. The loops of `OVS.UP` and `OVS.DOWN` have one
form: every turn (`OvsTurn`) writes a run of cells of one buffer and the histories, and the runs of the turns lie one
after another. What is said of the loop (`OvsLoop`) serves both commands. -/

namespace Sys2Proof.Proofs

open Sys2Proof.Machine

/-! ### The push (R186) -/

theorem ovsPush_getD_zero (h : Vector Num32 32) {len : Nat} (x : Num32) (hlen : 1 ≤ len) :
    (ovsPush h len x).getD 0 posZero = x := by
  rw [vector_getD, dif_pos (by decide), ovsPush, Vector.getElem_ofFn, if_neg (Nat.not_le.mpr hlen), if_pos rfl]

theorem ovsPush_getD_succ (h : Vector Num32 32) {len k : Nat} (x : Num32) (hk : k + 1 < len) (hlen : len ≤ 32) :
    (ovsPush h len x).getD (k + 1) posZero = h.getD k posZero := by
  rw [vector_getD, dif_pos (hk.trans_le hlen), ovsPush, Vector.getElem_ofFn, if_neg (Nat.not_le.mpr hk),
    if_neg (Nat.succ_ne_zero k), Nat.add_sub_cancel]

theorem ovsPush_pushed (h : Vector Num32 32) {len : Nat} (x : Num32) (hpos : 1 ≤ len) (hlen : len ≤ 32) :
    Pushed h len x (ovsPush h len x) :=
  ⟨ovsPush_getD_zero h x hpos, fun _ hk => ovsPush_getD_succ h x hk hlen, fun _ hk => ovsPush_beyond h x hk⟩

/-- Settles O40, by the three kinds of cells: the first, those a push moves, and those beyond its length. -/
theorem pushShiftsTheHistory : Obligations.PushShiftsTheHistory := fun h _ x hpos hlen => ovsPush_pushed h x hpos hlen

/-- What `NF` watches of a push are the cells it moves (log 14). -/
theorem historyFinite_eq (h : Vector Num32 32) (len : Nat) : historyFinite h len = allFinite (pushedCells h len) := by
  rw [allFinite, pushedCells, List.all_map]
  rfl

/-! ### One stage (R188, R189) -/

theorem hblen_pos (P : Params) (s d p : Fin 2) : 1 ≤ P.hblen s d p := Nat.succ_pos _

theorem uplen_pos (P : Params) (s : Fin 2) : 1 ≤ P.uplen s := (hblen_pos P s 0 0).trans (Nat.le_max_left _ _)

theorem stages_set_same (v : Vector OvsStage 2) (s : Fin 2) (g : OvsStage) : (v.set s g)[s] = g :=
  Vector.getElem_set_self _

theorem allFinite_append (us vs : List Num32) : allFinite (us ++ vs) = (allFinite us && allFinite vs) :=
  List.all_append

/-- A step of stage s writes the history cells `cells`, which `written` records, and leaves the other stage alone. -/
structure StageFrame (s : Fin 2) (cells : List Num32) (w w' : OvsWork) : Prop where
  other : ∀ e, e ≠ s → w'.stages[e] = w.stages[e]
  written : w'.written = (w.written && allFinite cells)

theorem StageFrame.of_set {s : Fin 2} {cells : List Num32} {w : OvsWork} {g : OvsStage} {written : Bool}
    (h : written = (w.written && allFinite cells)) :
    StageFrame s cells w { stages := w.stages.set s g, written := written } :=
  ⟨fun _ he => Vector.getElem_set_ne s.isLt _ fun heq => he (Fin.ext heq.symm), h⟩

section

variable (P : Params) (d : Draw) (s : Fin 2) (w : OvsWork)

theorem up2_stage_eq (x : Num32) :
    (up2 P d s w x).1.stages[s] = { w.stages[s] with uph := ovsPush (w.stages[s]).uph (P.uplen s) x } :=
  stages_set_same _ s _

theorem up2_stage (x : Num32) :
    UpStage P s w.stages[s] x ((up2 P d s w x).1.stages[s]) (up2 P d s w x).2.1 (up2 P d s w x).2.2 := by
  rw [up2_stage_eq]
  exact ⟨ovsPush_pushed _ x (uplen_pos P s) (uplen_le P s), rfl, rfl, _, _, _, _, ovsDot_dotIs _ _ _,
    ovsDot_dotIs _ _ _, rfl, rfl⟩

theorem up2_frame (x : Num32) :
    StageFrame s (pushedCells ((up2 P d s w x).1.stages[s]).uph (P.uplen s)) w (up2 P d s w x).1 := by
  rw [up2_stage_eq]
  exact .of_set (by rw [historyFinite_eq])

theorem down2_stage_eq (ue uo : Num32) :
    (down2 P d s w ue uo).1.stages[s]
      = { w.stages[s] with
          dne := ovsPush (w.stages[s]).dne (P.hblen s 1 0) ue
          dno := ovsPush (w.stages[s]).dno (P.hblen s 1 1) uo } :=
  stages_set_same _ s _

/-- The odd branch is summed over the history from before its push. -/
theorem down2_stage (ue uo : Num32) :
    DownStage P s w.stages[s] ue uo ((down2 P d s w ue uo).1.stages[s]) (down2 P d s w ue uo).2 := by
  rw [down2_stage_eq]
  exact ⟨ovsPush_pushed _ ue (hblen_pos P s 1 0) (hblen_le P s 1 0),
    ovsPush_pushed _ uo (hblen_pos P s 1 1) (hblen_le P s 1 1), rfl, _, _, _, ovsDot_dotIs _ _ _,
    ovsDot_dotIs _ _ _, rfl⟩

theorem down2_frame (ue uo : Num32) :
    StageFrame s (downCells P s ((down2 P d s w ue uo).1.stages[s])) w (down2 P d s w ue uo).1 := by
  rw [down2_stage_eq]
  exact .of_set (by rw [historyFinite_eq, historyFinite_eq, Bool.and_assoc, ← allFinite_append]; rfl)

end

/-! ### The cascade (R190) -/

/-- Three steps of stages record the history cells of all three. -/
theorem written_of_three_frames {s t u : Fin 2} {as bs cs : List Num32} {w a b c : OvsWork} (hw : w.written = true)
    (ha : StageFrame s as w a) (hb : StageFrame t bs a b) (hc : StageFrame u cs b c) :
    c.written = allFinite (as ++ bs ++ cs) := by
  rw [hc.written, hb.written, ha.written, hw, Bool.true_and, allFinite_append, allFinite_append]

section

variable (P : Params) {osf : BitVec 3} (d : Draw) (h : Vector OvsStage 2)

/-- One sample up meets R190, and `written` says whether the history cells it wrote are finite. -/
theorem upSample_sample (hosf : osf = 2#3 ∨ osf = 4#3) (x : Num32) :
    ∃ ws, UpSample P osf h x (upSample P osf d ⟨h, true⟩ x).1.stages (upSample P osf d ⟨h, true⟩ x).2 ws ∧
      (upSample P osf d ⟨h, true⟩ x).2.length = osf.toNat ∧
      (upSample P osf d ⟨h, true⟩ x).1.written = allFinite ws := by
  have ha := up2_stage P (0 :: d) 0 ⟨h, true⟩ x
  have hfa := up2_frame P (0 :: d) 0 ⟨h, true⟩ x
  rcases hosf with rfl | rfl
  · exact ⟨_, ⟨fun _ => ⟨_, _, ha, hfa.other 1 (by decide), rfl, rfl⟩, fun hne => absurd hne (by decide)⟩, rfl,
      hfa.written⟩
  · let a := up2 P (0 :: d) 0 ⟨h, true⟩ x
    let b := up2 P (1 :: d) 1 a.1 a.2.1
    have hb := up2_stage P (1 :: d) 1 a.1 a.2.1
    have hc := up2_stage P (2 :: d) 1 b.1 a.2.2
    have hfb := up2_frame P (1 :: d) 1 a.1 a.2.1
    have hfc := up2_frame P (2 :: d) 1 b.1 a.2.2
    rw [hfa.other 1 (by decide)] at hb
    have h0 := (hfc.other 0 (by decide)).trans (hfb.other 0 (by decide))
    rw [← h0] at ha hfa
    exact ⟨_, ⟨fun hne => absurd hne (by decide), fun _ => ⟨_, _, _, _, _, _, _, ha, hb, hc, rfl, rfl⟩⟩, rfl,
      written_of_three_frames rfl hfa hfb hfc⟩

/-- One sample down meets R190, and `written` says whether the history cells it wrote are finite. -/
theorem downSample_sample (hosf : osf = 2#3 ∨ osf = 4#3) (v : Nat → Num32) :
    ∃ ws, DownSample P osf h v (downSample P osf d ⟨h, true⟩ ((List.range osf.toNat).map v)).1.stages
        (downSample P osf d ⟨h, true⟩ ((List.range osf.toNat).map v)).2 ws ∧
      (downSample P osf d ⟨h, true⟩ ((List.range osf.toNat).map v)).1.written = allFinite ws := by
  rcases hosf with rfl | rfl
  · have hfa := down2_frame P (0 :: d) 0 ⟨h, true⟩ (v 0) (v 1)
    exact ⟨_, ⟨fun _ => ⟨down2_stage P (0 :: d) 0 ⟨h, true⟩ (v 0) (v 1), hfa.other 1 (by decide), rfl⟩,
      fun hne => absurd hne (by decide)⟩, hfa.written⟩
  · let a := down2 P (1 :: d) 1 ⟨h, true⟩ (v 0) (v 1)
    let b := down2 P (2 :: d) 1 a.1 (v 2) (v 3)
    have ha := down2_stage P (1 :: d) 1 ⟨h, true⟩ (v 0) (v 1)
    have hb := down2_stage P (2 :: d) 1 a.1 (v 2) (v 3)
    have hc := down2_stage P (0 :: d) 0 b.1 a.2 b.2
    have hfa := down2_frame P (1 :: d) 1 ⟨h, true⟩ (v 0) (v 1)
    have hfb := down2_frame P (2 :: d) 1 a.1 (v 2) (v 3)
    have hfc := down2_frame P (0 :: d) 0 b.1 a.2 b.2
    rw [(hfb.other 0 (by decide)).trans (hfa.other 0 (by decide))] at hc
    rw [← hfc.other 1 (by decide)] at hb hfb
    exact ⟨_, ⟨fun hne => absurd hne (by decide), fun _ => ⟨_, _, _, ha, hb, hc, rfl⟩⟩,
      written_of_three_frames rfl hfa hfb hfc⟩

end

/-! ### One turn of a loop (R191, R192, R218) -/

theorem allFinite_eq_false (vs : List Num32) : allFinite vs = false ↔ ∃ v ∈ vs, finite v = false := by
  simp [allFinite]

/-- The turn writes the values ys into the cells of buffer b from `start` on, and new histories, whose cells ws were
moved; `NF` watches both (log 14). -/
structure OvsTurn (b : BufSel) (start : Nat) (ys ws : List Num32) (w w' : Work) : Prop where
  channel : w'.ch = { w.ch with ovs := w'.ch.ovs }.setBuf b (memSetFrom (w.ch.buf b) start ys)
  flag : w'.nf = (w.nf || !allFinite (ys ++ ws))

section

variable (P : Params) {osf : BitVec 3} (d : Draw) (w : Work) (i : Nat)

theorem upStep_turn (hosf : osf = 2#3 ∨ osf = 4#3) :
    ∃ ys ws, UpSample P osf w.ch.ovs (w.ch.read d .lo i) (upStep P osf d w i).ch.ovs ys ws ∧
      ys.length = osf.toNat ∧ OvsTurn .hi (osf.toNat * i) ys ws w (upStep P osf d w i) := by
  obtain ⟨ws, hsample, hlen, hwritten⟩ := upSample_sample P (i :: d) w.ch.ovs hosf (w.ch.read d .lo i)
  refine ⟨_, ws, hsample, hlen, ?_, ?_⟩
  · rw [upStep, List.take_of_length_le hlen.le]
    rfl
  · rw [allFinite_append, Bool.and_comm, ← hwritten, upStep, List.take_of_length_le hlen.le]

theorem downStep_turn (hosf : osf = 2#3 ∨ osf = 4#3) :
    ∃ y ws, DownSample P osf w.ch.ovs (fun j => w.ch.read d .hi (osf.toNat * i + j)) (downStep P osf d w i).ch.ovs
        y ws ∧
      OvsTurn .lo i [y] ws w (downStep P osf d w i) := by
  obtain ⟨ws, hsample, hwritten⟩ := downSample_sample P (i :: d) w.ch.ovs hosf fun j =>
    w.ch.read d .hi (osf.toNat * i + j)
  refine ⟨_, ws, hsample, rfl, ?_⟩
  rw [allFinite_append, Bool.and_comm, ← hwritten, allFinite, List.all_cons, List.all_nil, Bool.and_true]
  rfl

end

/-! ### The loop -/

/-- A loop of such turns: turn i writes the f cells from f * i on. -/
structure OvsLoop (b : BufSel) (f : Nat) (ys ws : Nat → List Num32) (W : Nat → Work) : Prop where
  length : ∀ i, (ys i).length = f
  turn : ∀ i, OvsTurn b (f * i) (ys i) (ws i) (W i) (W (i + 1))

namespace OvsLoop

variable {b : BufSel} {f : Nat} {ys ws : Nat → List Num32} {W : Nat → Work} (h : OvsLoop b f ys ws W)
include h

/-- The loop changes the histories and buffer b, and no other part of the channel (R83). -/
theorem channel (n : Nat) : (W n).ch = { (W 0).ch with ovs := (W n).ch.ovs }.setBuf b ((W n).ch.buf b) := by
  induction n with
  | zero => cases b <;> rfl
  | succ n ih =>
    rw [(h.turn n).channel, setBuf_buf_same, ih]
    cases b <;> rfl

theorem otherBuffer {e : BufSel} (he : e ≠ b) (n : Nat) : (W n).ch.buf e = (W 0).ch.buf e := by
  rw [h.channel n, setBuf_buf_other _ _ he]
  cases e <;> rfl

/-- A turn reads the other buffer as it was before the loop (R84). -/
theorem read_otherBuffer {e : BufSel} (he : e ≠ b) (d : Draw) (n k : Nat) :
    (W n).ch.read d e k = (W 0).ch.read d e k :=
  read_congr (congrArg (memGet · k) (h.otherBuffer he n))

/-- Every cell after one more turn. -/
theorem memGet_succ (n k : Nat) :
    memGet ((W (n + 1)).ch.buf b) k
      = if f * n ≤ k ∧ k < f * n + f then (ys n)[k - f * n]? else memGet ((W n).ch.buf b) k := by
  rw [(h.turn n).channel, setBuf_buf_same, memGet_memSetFrom, h.length]

/-- The cells the loop has not reached are as before. -/
theorem ahead (n k : Nat) (hk : n * f ≤ k) : memGet ((W n).ch.buf b) k = memGet ((W 0).ch.buf b) k := by
  induction n with
  | zero => rfl
  | succ n ih =>
    rw [Nat.succ_mul, Nat.mul_comm n] at hk
    rw [h.memGet_succ, if_neg (by omega), ih (by rw [Nat.mul_comm]; omega)]

/-- The cells the loop has passed hold the values of their turns. -/
theorem behind (n i j : Nat) (hi : i < n) (hj : j < f) : memGet ((W n).ch.buf b) (f * i + j) = (ys i)[j]? := by
  induction n with
  | zero => exact absurd hi (Nat.not_lt_zero i)
  | succ n ih =>
    rw [h.memGet_succ]
    rcases Nat.lt_succ_iff_lt_or_eq.mp hi with hlt | rfl
    · have hroom : f * (i + 1) ≤ f * n := Nat.mul_le_mul_left f hlt
      rw [Nat.mul_succ] at hroom
      rw [if_neg (by omega), ih hlt]
    · rw [if_pos (by omega), Nat.add_sub_cancel_left]

/-- `NF` is never cleared, and records every turn's values and history cells. -/
theorem flag (n : Nat) :
    (W n).nf = true ↔ (W 0).nf = true ∨ ∃ i, i < n ∧ ∃ v, (v ∈ ys i ∨ v ∈ ws i) ∧ finite v = false := by
  induction n with
  | zero => simp
  | succ n ih =>
    rw [(h.turn n).flag, Bool.or_eq_true, ih, Bool.not_eq_true', allFinite_eq_false]
    simp only [List.mem_append, Nat.lt_succ_iff_lt_or_eq, or_and_right, exists_or, exists_eq_left, or_assoc]

end OvsLoop

/-- The work after n turns of the steps g. -/
def ovsWork (g : Work → Nat → Work) (w : Work) (n : Nat) : Work := (List.range n).foldl g w

theorem ovsWork_succ (g : Work → Nat → Work) (w : Work) (n : Nat) : ovsWork g w (n + 1) = g (ovsWork g w n) n :=
  foldl_range_succ g w n

section

variable (P : Params) {osf : BitVec 3} (d : Draw) (w : Work)

theorem upStep_loop (hosf : osf = 2#3 ∨ osf = 4#3) :
    ∃ ys ws, OvsLoop .hi osf.toNat ys ws (ovsWork (upStep P osf d) w) ∧
      ∀ i, UpSample P osf (ovsWork (upStep P osf d) w i).ch.ovs (w.ch.read d .lo i)
        (ovsWork (upStep P osf d) w (i + 1)).ch.ovs (ys i) (ws i) := by
  choose ys ws hsample hlen hturn using fun i => upStep_turn P d (ovsWork (upStep P osf d) w i) i hosf
  simp only [← ovsWork_succ] at hsample hturn
  have hloop : OvsLoop .hi osf.toNat ys ws (ovsWork (upStep P osf d) w) := ⟨hlen, hturn⟩
  have hread : ∀ i k, (ovsWork (upStep P osf d) w i).ch.read d .lo k = w.ch.read d .lo k :=
    hloop.read_otherBuffer (e := .lo) nofun d
  simp only [hread] at hsample
  exact ⟨ys, ws, hloop, hsample⟩

theorem downStep_loop (hosf : osf = 2#3 ∨ osf = 4#3) :
    ∃ (y : Nat → Num32) (ws : Nat → List Num32), OvsLoop .lo 1 (fun i => [y i]) ws (ovsWork (downStep P osf d) w) ∧
      ∀ i, DownSample P osf (ovsWork (downStep P osf d) w i).ch.ovs (fun j => w.ch.read d .hi (osf.toNat * i + j))
        (ovsWork (downStep P osf d) w (i + 1)).ch.ovs (y i) (ws i) := by
  choose y ws hsample hturn using fun i => downStep_turn P d (ovsWork (downStep P osf d) w i) i hosf
  simp only [← ovsWork_succ] at hsample hturn
  have hloop : OvsLoop .lo 1 (fun i => [y i]) ws (ovsWork (downStep P osf d) w) :=
    ⟨fun _ => rfl, fun i => (Nat.one_mul i).symm ▸ hturn i⟩
  have hread : ∀ i k, (ovsWork (downStep P osf d) w i).ch.read d .hi k = w.ch.read d .hi k :=
    hloop.read_otherBuffer (e := .hi) nofun d
  simp only [hread] at hsample
  exact ⟨y, ws, hloop, hsample⟩

end

/-! ### The commands (R191, R192) -/

section

variable {s : State} {c : Nat}

/-- The state a command of a running OVS with the steps g leaves: its frame, the channel and the flag of its loop. -/
theorem ovsBlock_runs (h : RunsOn s c .ovs) (g : Draw → Work → Nat → Work) :
    ProcessFrame s (advance (processChannel .ovs c (fun d w => ovsWork (g d) w s.blklen.toNat) s)) c ∧
    (advance (processChannel .ovs c (fun d w => ovsWork (g d) w s.blklen.toNat) s)).chan c
      = (ovsWork (g s.drawKey) ⟨s.chan c, s.nf⟩ s.blklen.toNat).ch ∧
    (advance (processChannel .ovs c (fun d w => ovsWork (g d) w s.blklen.toNat) s)).nf
      = (ovsWork (g s.drawKey) ⟨s.chan c, s.nf⟩ s.blklen.toNat).nf :=
  ⟨processChannel_frame .ovs c _ s, processChannel_runs h.enabled h.field _⟩

theorem exec_ovsUp_runs (h : ReadyFor s c) : exec (.ovsUp c) s = .next (advance (upBlock Config.params c s)) :=
  exec_runs h.running ((blockChecks_firstFailing s c).trans h.check) (Nat.zero_le _)

theorem exec_ovsDown_runs (h : ReadyFor s c) : exec (.ovsDown c) s = .next (advance (downBlock Config.params c s)) :=
  exec_runs h.running ((blockChecks_firstFailing s c).trans h.check) (Nat.zero_le _)

end

/-- Settles O41: the history states are those the loop goes through. -/
theorem ovsUpFillsTheHighRateBuffer : Obligations.OvsUpFillsTheHighRateBuffer := by
  intro c s h hosf
  obtain ⟨ys, ws, hloop, hsamples⟩ := upStep_loop Config.params s.drawKey ⟨s.chan c, s.nf⟩ hosf
  obtain ⟨hframe, hchan, hnf⟩ := ovsBlock_runs h (upStep Config.params s.actOsf)
  refine ⟨_, _, ys, ws, exec_ovsUp_runs h.toReadyFor, rfl, hsamples, hloop.length, fun i j hi hj => ?_, fun k hk => ?_,
    ?_, hframe, ?_⟩
  · exact hchan ▸ hloop.behind _ i j hi hj
  · exact hchan ▸ hloop.ahead _ k hk
  · exact hchan ▸ hloop.channel _
  · exact hnf ▸ hloop.flag _

/-- Settles O42: a turn writes one cell of `BUFLO`. -/
theorem ovsDownFillsTheBaseRateBuffer : Obligations.OvsDownFillsTheBaseRateBuffer := by
  intro c s h hosf
  obtain ⟨y, ws, hloop, hsamples⟩ := downStep_loop Config.params s.drawKey ⟨s.chan c, s.nf⟩ hosf
  obtain ⟨hframe, hchan, hnf⟩ := ovsBlock_runs h (downStep Config.params s.actOsf)
  refine ⟨_, _, y, ws, exec_ovsDown_runs h.toReadyFor, rfl, hsamples, ⟨fun i hi => ?_, fun k hk => ?_, ?_⟩, ?_, hframe,
    ?_⟩
  · have hcell := hloop.behind _ i 0 hi Nat.one_pos
    rw [Nat.one_mul] at hcell
    exact hchan ▸ hcell
  · exact hchan ▸ hloop.ahead _ k (by rwa [Nat.mul_one])
  · exact hchan ▸ hloop.otherBuffer (otherBuf_ne .lo) _
  · exact hchan ▸ hloop.channel _
  · have hflag := hloop.flag s.blklen.toNat
    simp only [List.mem_singleton] at hflag
    exact hnf ▸ hflag

end Sys2Proof.Proofs

/-! PROOFS. Unit BQC (spec R200 to R203). One sample is followed from section to section: `chainAt j` is the run of the
sections f to j - 1, its output the input of section j. A section reads its cells as they were before the sample and
writes them once (`chainAt_ahead`, `chainAt_behind`), so what the whole chain leaves is read off section by section
(`BqcPass`), and the loop over the block carries the sections' cells from sample to sample (`cascadeState`). -/

namespace Sys2Proof.Proofs

open Sys2Proof.Machine

/-! ### The chain of sections on one sample (R203) -/

/-- The sections from f up that come before section j, ascending. -/
def sectionsBefore (f j : Nat) : List Nat := (List.range (j - f)).map (f + ·)

theorem sectionRange_eq_sectionsBefore (f l : Nat) : sectionRange f l = sectionsBefore f (l + 1) := rfl

theorem sectionsBefore_self (f : Nat) : sectionsBefore f f = [] := by simp [sectionsBefore]

theorem sectionsBefore_succ {f j : Nat} (h : f ≤ j) : sectionsBefore f (j + 1) = sectionsBefore f j ++ [j] := by
  simp [sectionsBefore, Nat.succ_sub h, List.range_succ, Nat.add_sub_cancel' h]

theorem sectionStep_cells_self (bq : Vector Biquad 16) (d : Draw) (r : Sampled) (j : Fin 16) :
    (sectionStep bq d r j.val).ch.bs[j] = (sectionNext bq[j] r.ch.bs[j] (j.val :: d) r.y).1 := by
  simp [sectionStep, vector_getD]

theorem sectionStep_y (bq : Vector Biquad 16) (d : Draw) (r : Sampled) (j : Fin 16) :
    (sectionStep bq d r j.val).y = sectionOut bq[j] r.ch.bs[j] (j.val :: d) r.y := by
  simp [sectionStep, sectionNext, vector_getD]

theorem sectionStep_cells_other (bq : Vector Biquad 16) (d : Draw) (r : Sampled) {n : Nat} {j : Fin 16}
    (h : n ≠ j.val) : (sectionStep bq d r n).ch.bs[j] = r.ch.bs[j] :=
  Vector.getElem_setIfInBounds_ne _ h

/-- A section records whether the cells it leaves are finite (R218). -/
theorem sectionStep_stateFinite (bq : Vector Biquad 16) (d : Draw) (r : Sampled) (j : Fin 16) :
    (sectionStep bq d r j.val).stateFinite
      = (r.stateFinite && allFinite ((sectionStep bq d r j.val).ch.bs[j]).values) := by
  rw [sectionStep_cells_self]
  simp [sectionStep, vector_getD]

section

variable (bq : Vector Biquad 16) (f : Nat) (d : Draw) (ch : Channel) (x : Num32)

/-- What the sections from f up that come before section j make of the channel and the sample. -/
def chainAt (j : Nat) : Sampled := (sectionsBefore f j).foldl (sectionStep bq d) ⟨ch, x, true⟩

theorem bqcSample_eq_chainAt (l : Nat) : bqcSample bq f l d ch x = chainAt bq f d ch x (l + 1) := by
  rw [bqcSample, sectionRange_eq_sectionsBefore, chainAt]

theorem chainAt_first : chainAt bq f d ch x f = ⟨ch, x, true⟩ := by rw [chainAt, sectionsBefore_self, List.foldl_nil]

variable {bq f d ch x} {j : Fin 16} {n : Nat}

theorem chainAt_succ (hf : f ≤ n) : chainAt bq f d ch x (n + 1) = sectionStep bq d (chainAt bq f d ch x n) n := by
  rw [chainAt, sectionsBefore_succ hf, List.foldl_append]
  rfl

theorem chainAt_succ_cells_of_ne (hf : f ≤ n) (hj : n ≠ j.val) :
    (chainAt bq f d ch x (n + 1)).ch.bs[j] = (chainAt bq f d ch x n).ch.bs[j] := by
  rw [chainAt_succ hf, sectionStep_cells_other _ _ _ hj]

/-- The chain changes only the sections it has passed. -/
theorem chainAt_ahead (hf : f ≤ n) (hj : j.val < f ∨ n ≤ j.val) : (chainAt bq f d ch x n).ch.bs[j] = ch.bs[j] := by
  induction n, hf using Nat.le_induction with
  | base => rw [chainAt_first]
  | succ n hf ih => rw [chainAt_succ_cells_of_ne hf (by omega), ih (by omega)]

/-- Section j works on its cells from before the sample (R201). -/
theorem chainAt_y_succ (hf : f ≤ j.val) :
    (chainAt bq f d ch x (j.val + 1)).y = sectionOut bq[j] ch.bs[j] (j.val :: d) (chainAt bq f d ch x j.val).y := by
  rw [chainAt_succ hf, sectionStep_y, chainAt_ahead hf (.inr le_rfl)]

/-- A section the chain has passed holds its input, its last input, its output and its last output (R201). -/
theorem chainAt_behind (hf : f ≤ j.val) (hj : j.val < n) :
    (chainAt bq f d ch x n).ch.bs[j] =
      { x1 := (chainAt bq f d ch x j.val).y, x2 := (ch.bs[j]).x1,
        y1 := (chainAt bq f d ch x (j.val + 1)).y, y2 := (ch.bs[j]).y1 } := by
  induction n, (show j.val + 1 ≤ n from hj) using Nat.le_induction with
  | base =>
    rw [chainAt_y_succ hf, chainAt_succ hf, sectionStep_cells_self,
      chainAt_ahead hf (.inr le_rfl)]
    rfl
  | succ n hn ih => rw [chainAt_succ_cells_of_ne (by omega) (by omega), ih hn]

/-- The record of the chain is that of the sections it has passed, each as it stands after the chain (R218). -/
theorem chainAt_stateFinite (hf : f ≤ n) (hn : n ≤ 16) :
    (chainAt bq f d ch x n).stateFinite = false ↔
      ∃ j : Fin 16, f ≤ j.val ∧ j.val < n ∧ allFinite ((chainAt bq f d ch x n).ch.bs[j]).values = false := by
  induction n, hf using Nat.le_induction with
  | base =>
    rw [chainAt_first]
    exact iff_of_false nofun fun ⟨j, hlo, hhi, _⟩ => absurd hlo (Nat.not_le.mpr hhi)
  | succ n hf ih =>
    have hstep := sectionStep_stateFinite bq d (chainAt bq f d ch x n) ⟨n, hn⟩
    rw [← chainAt_succ hf] at hstep
    rw [hstep, Bool.and_eq_false_iff, ih (by omega)]
    constructor
    · rintro (⟨j, hlo, hhi, hfin⟩ | hfin)
      · exact ⟨j, hlo, by omega, by rwa [chainAt_succ_cells_of_ne hf (by omega)]⟩
      · exact ⟨⟨n, hn⟩, hf, Nat.lt_succ_self n, hfin⟩
    · rintro ⟨j, hlo, hhi, hfin⟩
      rcases Nat.lt_succ_iff_lt_or_eq.mp hhi with hlt | heq
      · rw [chainAt_succ_cells_of_ne hf (by omega)] at hfin
        exact .inl ⟨j, hlo, hlt, hfin⟩
      · obtain rfl : j = ⟨n, hn⟩ := Fin.ext heq
        exact .inr hfin

end

/-- One pass of the sections f to l takes their cells from g to g', where v j goes into section j and v (j + 1) comes
out of it. -/
structure BqcPass (bq : Vector Biquad 16) (f l : Nat) (g g' : Vector BiquadState 16) (v : Nat → Num32) : Prop where
  sample : ∀ j : Fin 16, f ≤ j.val → j.val ≤ l → SectionSample bq[j] g[j] (v j.val) (v (j.val + 1))
  cells : ∀ j : Fin 16, f ≤ j.val → j.val ≤ l →
    g'[j] = { x1 := v j.val, x2 := (g[j]).x1, y1 := v (j.val + 1), y2 := (g[j]).y1 }
  untouched : ∀ j : Fin 16, j.val < f ∨ l < j.val → g'[j] = g[j]

theorem bqcSample_pass (bq : Vector Biquad 16) {f l : Nat} (hfl : f ≤ l) (d : Draw) (ch : Channel) (x : Num32) :
    BqcPass bq f l ch.bs (bqcSample bq f l d ch x).ch.bs fun j => (chainAt bq f d ch x j).y where
  sample j hf _ := by
    rw [chainAt_y_succ hf]
    exact sectionOut_sample _ _ _ _
  cells j hf hl := by rw [bqcSample_eq_chainAt, chainAt_behind hf (by omega)]
  untouched j hj := by rw [bqcSample_eq_chainAt, chainAt_ahead (by omega) (by omega)]

/-! ### The cells before each turn of the loop (R203) -/

section

variable (bq : Vector Biquad 16) (b : BufSel) (f l : Nat) (d : Draw) (w : Work)

/-- The sections' cells after n turns of the cascade's loop over buffer b. -/
def cascadeState (n : Nat) : Vector BiquadState 16 := (runBlock b (bqcSample bq f l) d n w).ch.bs

/-- What goes into section j in turn i of the loop; at l + 1 the output of the turn. -/
def cascadeValue (i j : Nat) : Num32 :=
  (chainAt bq f (i :: d) (runBlock b (bqcSample bq f l) d i w).ch (w.ch.read d b i) j).y

theorem cascadeValue_first (i : Nat) : cascadeValue bq b f l d w i f = w.ch.read d b i := by
  rw [cascadeValue, chainAt_first]

theorem turn_bqcSample_y (i : Nat) : (turn b (bqcSample bq f l) d w i).y = cascadeValue bq b f l d w i (l + 1) := by
  rw [turn, bqcSample_eq_chainAt, cascadeValue]

theorem turn_bqcSample_bs (i : Nat) :
    (turn b (bqcSample bq f l) d w i).ch.bs = cascadeState bq b f l d w (i + 1) := by
  rw [cascadeState, runBlock_succ_ch (bqcSample_keeps bq f l), write_bs]

variable {f l}

theorem turn_bqcSample_stateFinite (hfl : f ≤ l) (hl : l < 16) (i : Nat) :
    (turn b (bqcSample bq f l) d w i).stateFinite = false ↔
      ∃ j : Fin 16, f ≤ j.val ∧ j.val ≤ l ∧ allFinite ((cascadeState bq b f l d w (i + 1))[j]).values = false := by
  rw [← turn_bqcSample_bs, turn, bqcSample_eq_chainAt, chainAt_stateFinite (by omega) hl]
  simp only [Nat.lt_succ_iff]

theorem cascadeState_succ_pass (hfl : f ≤ l) (i : Nat) :
    BqcPass bq f l (cascadeState bq b f l d w i) (cascadeState bq b f l d w (i + 1))
      (cascadeValue bq b f l d w i) := by
  rw [← turn_bqcSample_bs]
  exact bqcSample_pass bq hfl (i :: d) _ _

/-- The loop changes the sections' cells and the buffers, and no other part of the channel (R83). -/
theorem runBlock_bqcSample_others (n : Nat) :
    (runBlock b (bqcSample bq f l) d n w).ch.dsV = w.ch.dsV ∧
    (runBlock b (bqcSample bq f l) d n w).ch.ts = w.ch.ts ∧
    (runBlock b (bqcSample bq f l) d n w).ch.ovs = w.ch.ovs := by
  induction n with
  | zero => exact ⟨rfl, rfl, rfl⟩
  | succ n ih =>
    rw [runBlock_succ_ch (bqcSample_keeps bq f l), write_dsV, write_ts, write_ovs, turn, bqcSample, sections_others]
    exact ih

end

/-! ### What the command leaves (R121, R203, R218) -/

section

variable {s : State} {c f l : Nat}

theorem exec_bqcRun_runs (h : ReadyFor s c) (b : BufSel) (hfl : f ≤ l) (hl : l < Config.params.nsec) :
    exec (.bqcRun c b f l) s = .next (advance (runUnit .bqc c b (bqcSample s.bq f l) s)) :=
  exec_runs h.running
    ((sectionChecks_firstFailing _ s c f l).trans ((sectionCheck_none _ s c f l).mpr ⟨h.check, hfl, hl⟩))
    (Nat.zero_le _)

/-- `NF` watches the outputs of the turns and the cells of the sections in the range. -/
theorem runUnit_bqcSample_flag (h : RunsOn s c .bqc) (b : BufSel) (hfl : f ≤ l) (hl : l < 16) :
    FlagRecords s (advance (runUnit .bqc c b (bqcSample s.bq f l) s)) fun v => ∃ i, i < lenOf s b ∧
      (v = cascadeValue s.bq b f l s.drawKey ⟨s.chan c, s.nf⟩ i (l + 1) ∨ ∃ j : Fin 16, f ≤ j.val ∧ j.val ≤ l ∧
        v ∈ ((cascadeState s.bq b f l s.drawKey ⟨s.chan c, s.nf⟩ (i + 1))[j]).values) := by
  rw [FlagRecords, runUnit_nf h b (bqcSample_keeps s.bq f l)]
  simp only [Bool.and_eq_false_iff, turn_bqcSample_stateFinite _ _ _ _ hfl hl, turn_bqcSample_y, allFinite_eq_false]
  refine or_congr_right ⟨?_, ?_⟩
  · rintro ⟨i, hi, hy | ⟨j, hf, hl, v, hv, hfin⟩⟩
    · exact ⟨_, ⟨i, hi, .inl rfl⟩, hy⟩
    · exact ⟨v, ⟨i, hi, .inr ⟨j, hf, hl, hv⟩⟩, hfin⟩
  · rintro ⟨v, ⟨i, hi, rfl | ⟨j, hf, hl, hv⟩⟩, hfin⟩
    · exact ⟨i, hi, .inl hfin⟩
    · exact ⟨i, hi, .inr ⟨j, hf, hl, v, hv, hfin⟩⟩

end

/-- Settles O43: the section states are those the loop goes through, the values those handed from section to section. -/
theorem bqcRunIteratesTheCascade : Obligations.BqcRunIteratesTheCascade := by
  intro c b f l s h hfl hl
  obtain ⟨hframe, hchan, -⟩ := runUnit_runs h b (bqcSample s.bq f l)
  have hpass := cascadeState_succ_pass s.bq b s.drawKey ⟨s.chan c, s.nf⟩ hfl
  have hblock := runUnit_block h b (bqcSample_keeps s.bq f l)
  simp only [turn_bqcSample_y] at hblock
  obtain ⟨hdsV, hts, hovs⟩ :=
    runBlock_bqcSample_others (f := f) (l := l) s.bq b s.drawKey ⟨s.chan c, s.nf⟩ (lenOf s b)
  rw [← hchan] at hdsV hts hovs
  exact ⟨_, _, _, exec_bqcRun_runs h.toReadyFor b hfl hl, rfl, cascadeValue_first _ _ _ _ _ _,
    fun i j hf hl => ⟨(hpass i).sample j hf hl, (hpass i).cells j hf hl⟩, fun i j hj => (hpass i).untouched j hj,
    hblock, congrArg Channel.bs hchan, hdsV, hts, hovs, hframe,
    runUnit_bqcSample_flag h b hfl (hl.trans_le (nsec_le _))⟩

/-! ### The identity section (R202) -/

section

variable {a u x z : Num32}

theorem zero_fmul_isZero (d : Draw) (hz : isZero z = true) (hu : finite u = true) : isZero (fmul d z u) = true := by
  rw [fmul_finite d (zero_finite hz) hu, units_zero hz, Nat.zero_mul, roundMag_zero]
  exact isZero_zeroOf _

/-- Adding a zero does not move a finite number, but for the sign of a zero. -/
theorem sameButZeroSign_add_zero (d : Draw) (hx : finite x = true) (h : SameButZeroSign a x) (hz : isZero z = true) :
    SameButZeroSign (fadd d a z) x := by
  rcases h with hsame | ⟨ha, hx0⟩
  · obtain rfl := eq_of_sameNum_finite hsame hx
    cases ha : isZero a
    · exact .inl (.inl (fadd_zero d (finite_not_nan hx) ha hz))
    · exact .inr ⟨fadd_zeros d ha hz ▸ isZero_zeroOf _, ha⟩
  · exact .inr ⟨fadd_zeros d ha hz ▸ isZero_zeroOf _, hx0⟩

theorem sameButZeroSign_sub_zero (d : Draw) (hx : finite x = true) (h : SameButZeroSign a x) (hz : isZero z = true) :
    SameButZeroSign (fsub d a z) x :=
  sameButZeroSign_add_zero d hx h (by rwa [isZero_fneg])

/-- The first product is the sample itself, each of the other four a zero that is added or subtracted. -/
theorem sectionOut_identity {t : BiquadState} (d : Draw) (hx : finite x = true) (ht : allFinite t.values = true) :
    SameButZeroSign (sectionOut Biquad.identity t d x) x := by
  obtain ⟨hx1, hx2, hy1, hy2⟩ :
      finite t.x1 = true ∧ finite t.x2 = true ∧ finite t.y1 = true ∧ finite t.y2 = true := by
    simpa [allFinite, BiquadState.values] using ht
  have hzero : isZero posZero = true := by decide
  have h0 : SameButZeroSign (fmul (0 :: d) numOne x) x := .inl (.inl (one_fmul _ hx))
  have h1 := sameButZeroSign_add_zero (1 :: d) hx h0 (zero_fmul_isZero (2 :: d) hzero hx1)
  have h2 := sameButZeroSign_add_zero (3 :: d) hx h1 (zero_fmul_isZero (4 :: d) hzero hx2)
  have h3 := sameButZeroSign_sub_zero (5 :: d) hx h2 (zero_fmul_isZero (6 :: d) hzero hy1)
  exact sameButZeroSign_sub_zero (7 :: d) hx h3 (zero_fmul_isZero (8 :: d) hzero hy2)

end

/-- Settles O44: the section hands the sample on but for the sign of a zero. -/
theorem identitySectionPassesFiniteSamples : Obligations.IdentitySectionPassesFiniteSamples := by
  intro t d x hx ht
  have hsame : SameButZeroSign (sectionOut Biquad.identity t d x) x := sectionOut_identity d hx ht
  rcases hsame with hsame | ⟨hout, hzero⟩
  · have heq := eq_of_sameNum_finite hsame hx
    exact ⟨fun _ => heq, fun hzero => (congrArg isZero heq).trans hzero⟩
  · exact ⟨fun hne => absurd hzero (ne_true_of_eq_false hne), fun _ => hout⟩

end Sys2Proof.Proofs

/-! PROOFS. Faults (spec R96, R211 to R214): what a command that fails a check records, and what a faulted block still
does. -/

namespace Sys2Proof.Proofs

open Sys2Proof.Machine

/-! ### A word that is no command (R96, R110) -/

/-- A word at the head of the port that does not decode is treated as a command whose one check fails. -/
theorem step_illegal {s : State} {w : Word} {rest : List Word} {e : Illegal} (hcmds : s.cmds = w :: rest)
    (hdecode : decode w = .error e) : step s = illegalCommand { s with cmds := rest } := by
  simp only [step, takeCommand_cons hcmds, hdecode]

/-- Such a word is recorded as `ILLEGAL_CMD` in a block that is not faulted (R96, R212). -/
theorem illegalCommand_faults {s : State} (hf : s.faulted = false) :
    illegalCommand s = .next (advance (raiseFault .illegalCmd s)) := command_faults hf rfl

theorem illegalCommand_discards {s : State} (hf : s.faulted = true) : illegalCommand s = .next (advance s) :=
  command_discards hf

/-! ### Recording and discarding (R212, R214) -/

/-- Settles O9: a command and a word that is no command fault alike, and the word is counted. -/
theorem firstFailingCheckIsRecorded : Obligations.FirstFailingCheckIsRecorded := by
  refine ⟨⟨rfl, rfl, rfl, rfl, rfl, rfl, rfl, rfl⟩, fun i s code hf hcheck => ⟨s.draws + 1, exec_faults hf hcheck⟩,
    fun s w rest e hf hcmds hdecode => ⟨s.draws + 1, ?_⟩⟩
  exact (step_illegal hcmds hdecode).trans (illegalCommand_faults hf)

/-- In the faulted state `RREG` is discarded when a check of its own fails (R214). -/
theorem readCommand_discards {check : Option FaultCode} {body : State → State} {s : State} {code : FaultCode}
    (hf : s.faulted = true) (hc : check = some code) : readCommand check body s = .next (advance s) := by
  simp [readCommand, hf, hc]

/-- Settles O11: every word is discarded but an `RREG` whose checks pass. -/
theorem faultedBlockDiscards : Obligations.FaultedBlockDiscards := by
  intro s hf
  refine ⟨fun i hi => ⟨s.draws + 1, ?_⟩, fun a code hcheck => ⟨s.draws + 1, ?_⟩,
    fun a r ha hchecks => ⟨s.draws + 1, ?_⟩, fun w rest e hcmds hdecode => ⟨s.draws + 1, ?_⟩⟩
  · rw [exec_command i s hi]
    exact command_discards hf
  · rw [exec_rreg]
    exact readCommand_discards hf hcheck
  · rw [exec_rreg, readCommand_runs hchecks, rregBody_mapped ha]
    rfl
  · exact (step_illegal hcmds hdecode).trans (illegalCommand_discards hf)

end Sys2Proof.Proofs

/-! PROOFS. Hardware reset (spec R240) and the state a run begins with. -/

namespace Sys2Proof.Proofs

open Sys2Proof.Machine

/-! ### The channels -/

theorem reset_chan (c : Nat) : State.reset.chan c = Channel.reset := by
  by_cases h : c < 16 <;> simp [chan_eq, h, State.reset]

/-- Hardware reset from any state leaves every channel as the state a run begins with has it (R240). -/
theorem hardwareReset_chan (s : State) (c : Nat) : (hardwareReset s).chan c = Channel.reset := reset_chan c

/-! ### The registers -/

/-- A state window after hardware reset shows +0.0 on every channel (R53, R240). -/
theorem readReg_hardwareReset_window (P : Params) (s : State) {r : Reg} (hr : r.kind = .window) :
    readReg P (hardwareReset s) r = posZero := by
  have hshown : (hardwareReset s).shown = Channel.reset := hardwareReset_chan s _
  cases r
  case dsV | tsSi | tsSk | tsSo => rw [readReg, hshown]; rfl
  case uph | dne | dno => rw [readReg, hshown]; simp [Channel.reset, OvsStage.reset]
  case bs j g =>
    rw [readReg, hshown, Channel.reset, Fin.getElem_fin, Vector.getElem_replicate]
    cases g <;> rfl
  all_goals cases hr

/-- Every section is the identity after hardware reset (R47, R240). -/
theorem hardwareReset_bq (s : State) (j : Fin 16) : (hardwareReset s).bq[j] = Biquad.identity := by
  rw [Fin.getElem_fin, hardwareReset, State.reset, Vector.getElem_replicate]

theorem readReg_hardwareReset_bq (P : Params) (s : State) (j : Fin 16) (f : BqField) :
    readReg P (hardwareReset s) (.bq j f) = Biquad.identity.get f := by
  rw [readReg, hardwareReset_bq]

/-- Every register that is no constant and no `BQ_B0` reads 0 after hardware reset (R240). -/
theorem readReg_hardwareReset_zero (P : Params) (s : State) {r : Reg} (hconst : r.kind ≠ .roc)
    (hb0 : ∀ j, r ≠ .bq j .b0) : readReg P (hardwareReset s) r = posZero := by
  by_cases hwindow : r.kind = .window
  · exact readReg_hardwareReset_window P s hwindow
  cases r
  case bq j f =>
    rw [readReg_hardwareReset_bq]
    cases f
    case b0 => exact absurd rfl (hb0 j)
    all_goals rfl
  all_goals first | rfl | exact absurd rfl hconst | exact absurd rfl hwindow

/-- A constant reads the same in every state (R21). -/
theorem readReg_constant (P : Params) (s t : State) {r : Reg} (hr : r.kind = .roc) : readReg P s r = readReg P t r := by
  cases r <;> first | rfl | cases hr

/-- Settles O15: the registers by their access kind, the channels as after reset. -/
theorem hardwareResetLeavesTheStatedValues : Obligations.HardwareResetLeavesTheStatedValues := by
  refine ⟨rfl, fun P s => ⟨fun r => readReg_hardwareReset_zero P s, fun j => readReg_hardwareReset_bq P s j .b0,
    fun r => readReg_constant P _ s, fun c => ?_, fun c b i => ?_, rfl, rfl, rfl⟩⟩
  · rw [hardwareReset_chan]
    exact sameUnitState_refl _
  · rw [hardwareReset_chan, reset_buf, memGet_nil]

/-! ### The invariants (R54, R55, R240) -/

theorem unreachableIsReset_reset (P : Params) : UnreachableIsReset P State.reset := by
  rw [unreachableIsReset_iff]
  refine ⟨fun c _ => reset_chan c, fun j _ => ?_, fun c => ?_⟩
  · simp [vector_getD, State.reset]
  · rw [reset_chan]
    exact beyondIsReset_reset P

theorem finiteUnlessFlagged_reset : FiniteUnlessFlagged State.reset := by
  refine fun _ => ⟨by decide, fun c => ?_⟩
  rw [reset_chan]
  exact cellsFinite_reset

/-- Settles O46, invariant by invariant. -/
theorem resetStateIsLegal : Obligations.ResetStateIsLegal := by
  intro P
  have hform : ∀ c, ChannelInForm State.reset c (State.reset.chan c) := fun c => by
    rw [reset_chan]
    exact channelInForm_reset _ c
  obtain ⟨hcanonical, hbounds⟩ := (channelsInForm_iff State.reset).mp hform
  exact {
    canonical := hcanonical
    bounds := hbounds
    faults := ⟨fun _ => ⟨rfl, rfl⟩, nofun⟩
    config := ⟨fun _ => ⟨rfl, rfl, rfl, rfl⟩, nofun⟩
    untouched := fun _ => ⟨rfl, rfl, rfl, rfl, rfl, rfl⟩
    unreachable := unreachableIsReset_reset P
    flagged := finiteUnlessFlagged_reset }

end Sys2Proof.Proofs

/-! PROOFS. A second `PREPARE` (spec R112, R242). It derives the constants again under other draws, and the relations of
R152, R162 and R173 determine each constant up to the pattern of a NaN: finite ones come out bit for bit the same. -/

namespace Sys2Proof.Proofs

open Sys2Proof.Machine

/-! ### Numbers that differ at most in the pattern of a NaN (R11) -/

section

variable {a b c a' b' : Num32}

theorem sameNum_symm (h : SameNum a b) : SameNum b a := h.imp Eq.symm And.symm

theorem sameNum_trans (hab : SameNum a b) (hbc : SameNum b c) : SameNum a c := by
  rcases hab with rfl | ⟨ha, hb⟩
  · exact hbc
  · rcases hbc with rfl | ⟨-, hc⟩
    · exact .inr ⟨ha, hb⟩
    · exact .inr ⟨ha, hc⟩

/-- Two results are the same when the formulas that give them are. -/
theorem sameNum_of_eqs (ha : a = a') (hb : b = b') (h : SameNum a' b') : SameNum a b := by
  rwa [ha, hb]

theorem sameNum_fneg (h : SameNum a b) : SameNum (fneg a) (fneg b) := by
  rcases h with rfl | ⟨ha, hb⟩
  · exact .inl rfl
  · exact .inr ⟨by rwa [isNan_fneg], by rwa [isNan_fneg]⟩

/-- A configuration function sees the bits of its operand (R10); the product of finite factors has one pattern. -/
theorem sameNum_of_fmul_finite {f : Num32 → Num32} {d d' : Draw} {y y' : Num32} (ha : SameNum a' a)
    (hb : SameNum b' b) (haf : finite a = true) (hbf : finite b = true) (hy : SameNum y (f (fmul d a b)))
    (hy' : SameNum y' (f (fmul d' a' b'))) : SameNum y' y := by
  rw [eq_of_sameNum_finite ha haf, eq_of_sameNum_finite hb hbf, fmul_finite d' haf hbf,
    ← fmul_finite d haf hbf] at hy'
  exact sameNum_trans hy' (sameNum_symm hy)

/-- Numbers that are the same, one by one, are equal when they are all finite. -/
theorem eq_of_forall₂_sameNum {us vs : List Num32} (h : List.Forall₂ SameNum us vs) (hfin : allFinite vs = true) :
    us = vs := by
  induction h with
  | nil => rfl
  | cons hhead _ ih =>
    obtain ⟨hv, hvs⟩ := List.forall_mem_cons.mp (List.all_eq_true.mp hfin)
    rw [eq_of_sameNum_finite hhead hv, ih (List.all_eq_true.mpr hvs)]

end

/-! ### The constants of DWS and of OAC (R152, R162) -/

section

variable {P : Params} {fs : Num32}

theorem dwsConsts_ext_values {k k' : DwsConsts} (h : k'.values = k.values) : k' = k := by
  cases k
  cases k'
  simpa [DwsConsts.values] using h

/-- The constants of R152, when they are finite, do not depend on the draws. In this proof and those of OAC and TRI a
name s… says that a constant is the same number in both derivations, in the order of the rule's formulas. -/
theorem derivedDws_unique {k k' : DwsConsts} (h : DerivedDws P fs k) (h' : DerivedDws P fs k')
    (hfin : allFinite k.values = true) : k' = k := by
  obtain ⟨e, ha, hb, hq0, hivt, hl⟩ := h
  obtain ⟨e', ha', hb', hq0', hivt', hl'⟩ := h'
  have hr := sameNum_refl
  have hct := sameNum_fmul (e' 0) (e 0) (hr P.dcC.num) (hr fs)
  have hgr := sameNum_guarded (P := P) (e' 1) (e' 2) (e 1) (e 2) (hr numOne) (hr P.dcR.num)
  have hig := sameNum_guarded (P := P) (e' 4) (e' 5) (e 4) (e 5) (hr numOne) (sameNum_fadd (e' 3) (e 3) hct hgr)
  have sa := sameNum_of_eqs ha' ha (sameNum_fmul _ _ hct hig)
  have sb := sameNum_of_eqs hb' hb (sameNum_fmul _ _ hgr hig)
  have sq0 := sameNum_of_eqs hq0' hq0 (sameNum_fmul _ _ (hr _) hig)
  have sivt := sameNum_of_eqs hivt' hivt (sameNum_guarded _ _ _ _ (hr _) (hr _))
  have hq0fin : finite k.q0 = true := List.all_eq_true.mp hfin _ (by simp [DwsConsts.values])
  have hivtfin : finite k.ivt = true := List.all_eq_true.mp hfin _ (by simp [DwsConsts.values])
  have sl := sameNum_of_fmul_finite sq0 sivt hq0fin hivtfin hl hl'
  have hvalues : List.Forall₂ SameNum k'.values k.values := by simp [DwsConsts.values, sa, sb, sq0, sl, sivt]
  exact dwsConsts_ext_values (eq_of_forall₂_sameNum hvalues hfin)

theorem oacConsts_ext_values {k k' : OacConsts} (h : k'.values = k.values) : k' = k := by
  cases k
  cases k'
  simpa [OacConsts.values] using h

theorem derivedOac_unique {k k' : OacConsts} (h : DerivedOac P k) (h' : DerivedOac P k')
    (hfin : allFinite k.values = true) : k' = k := by
  obtain ⟨e, hrr, hga, hq0, hivt, hl, hxk, hc1, hc2, hc3, hivs⟩ := h
  obtain ⟨e', hrr', hga', hq0', hivt', hl', hxk', hc1', hc2', hc3', hivs'⟩ := h'
  have hr := sameNum_refl
  have srr := sameNum_of_eqs hrr' hrr (sameNum_guarded _ _ _ _ (hr _) (hr _))
  have sga := sameNum_of_eqs hga' hga (sameNum_fadd _ _ (hr _) srr)
  have sq0 := sameNum_of_eqs hq0' hq0 (sameNum_fmul _ _ (hr _) (hr _))
  have sivt := sameNum_of_eqs hivt' hivt (sameNum_guarded _ _ _ _ (hr _) (hr _))
  have sivs := sameNum_of_eqs hivs' hivs (sameNum_guarded _ _ _ _ (hr _) (hr _))
  have hq0fin : finite k.q0 = true := List.all_eq_true.mp hfin _ (by simp [OacConsts.values])
  have hivtfin : finite k.ivt = true := List.all_eq_true.mp hfin _ (by simp [OacConsts.values])
  have sl := sameNum_of_fmul_finite sq0 sivt hq0fin hivtfin hl hl'
  have hkk := sameNum_fmul (e' 0) (e 0) sq0 sivt
  have hvkd := sameNum_fneg (sameNum_fmul (e' 1) (e 1) (hr P.ocVt.num) sl)
  have sxk := sameNum_of_eqs hxk' hxk (sameNum_fmul _ _ (hr _)
    (sameNum_fsub _ _ (sameNum_guarded _ _ _ _ (sameNum_fadd _ _ hvkd (hr _)) (hr _)) (hr _)))
  have sc1 := sameNum_of_eqs hc1' hc1 (sameNum_fadd _ _ (hr _)
    (sameNum_guarded _ _ _ _ srr (sameNum_fadd _ _ (hr _) hkk)))
  rw [← hc1] at hc2 hc3
  rw [← hc1'] at hc2' hc3'
  have hF := sameNum_fadd (e' 6) (e 6) sxk hvkd
  have hS := sameNum_fadd (e' 7) (e 7) (hr numOne) (sameNum_fmul (e' 8) (e 8) srr (hr numHalf))
  have hA := sameNum_fsub (e' 9) (e 9) hF (sameNum_fmul (e' 10) (e 10) sc1 sxk)
  have hB := sameNum_fsub (e' 11) (e 11) hS sc1
  have hix := sameNum_guarded (P := P) (e' 12) (e' 13) (e 12) (e 13) (hr numOne) sxk
  have sc2 := sameNum_of_eqs hc2' hc2 (sameNum_fmul _ _ (sameNum_fmul _ _
    (sameNum_fsub _ _ (sameNum_fmul _ _ (hr _) hA) (sameNum_fmul _ _ hB sxk)) hix) hix)
  have sc3 := sameNum_of_eqs hc3' hc3 (sameNum_fmul _ _ (sameNum_fmul _ _ (sameNum_fmul _ _
    (sameNum_fsub _ _ (sameNum_fmul _ _ hB sxk) (sameNum_fmul _ _ (hr _) hA)) hix) hix) hix)
  have hvalues : List.Forall₂ SameNum k'.values k.values := by
    simp [OacConsts.values, sga, srr, sq0, sl, sivt, sxk, sc1, sc2, sc3, sivs]
  exact oacConsts_ext_values (eq_of_forall₂_sameNum hvalues hfin)

end

/-! ### The junction solver (R174) -/

section

variable {P : Params} {e0 e0' dpk dpk' rt rt' rpk rpk' i i' j j' : Num32}

/-- A NaN resistance makes the conducting root a NaN. -/
theorem conductingCurrent_nan (h : ConductingCurrent P e0 rt i) (hrt : isNan rt = true) : isNan i = true := by
  obtain ⟨e, rfl⟩ := h
  have hg : isNan (fmul (e 0) (fmul (e 1) P.tcK.num rt) e0) = true := fmul_nan _ (.inl (fmul_nan _ (.inr hrt)))
  have hlinear := fadd_nan (e 8) (b := numOne) (.inl (fmul_nan (e 9) (a := numTwo) (.inr hg)))
  exact fdiv_nan _ (.inr (fadd_nan _ (.inl (fadd_nan _ (.inl hlinear)))))

/-- The guard leaves the current alone when the resistance is a NaN. -/
theorem guardedCurrent_of_nan_resistance (h : GuardedCurrent P dpk rpk i j) (hrpk : isNan rpk = true) : j = i := by
  obtain ⟨e, -, hkeep⟩ := h
  exact hkeep (comparisons_nan (.inl (fsub_nan _ (.inr (fmul_nan _ (.inl hrpk)))))).1

theorem conductingCurrent_sameNum (hrt : SameNum rt rt') (h : ConductingCurrent P e0 rt i)
    (h' : ConductingCurrent P e0 rt' i') : SameNum i i' := by
  rcases hrt with rfl | ⟨hn, hn'⟩
  · exact conductingCurrent_unique h h'
  · exact .inr ⟨conductingCurrent_nan h hn, conductingCurrent_nan h' hn'⟩

theorem guardedCurrent_sameNum (hdpk : SameNum dpk dpk') (hrpk : SameNum rpk rpk') (hi : SameNum i i')
    (h : GuardedCurrent P dpk rpk i j) (h' : GuardedCurrent P dpk' rpk' i' j') : SameNum j j' := by
  rcases hrpk with rfl | ⟨hn, hn'⟩
  · exact guardedCurrent_unique hdpk hi h h'
  · rwa [guardedCurrent_of_nan_resistance h hn, guardedCurrent_of_nan_resistance h' hn']

/-- The solver's result does not depend on the patterns of the NaNs among its operands. -/
theorem junctionCurrent_sameNum (he : SameNum e0 e0') (hdpk : SameNum dpk dpk') (hrt : SameNum rt rt')
    (hrpk : SameNum rpk rpk') (h : JunctionCurrent P e0 dpk rt rpk j) (h' : JunctionCurrent P e0' dpk' rt' rpk' j') :
    SameNum j j' := by
  obtain ⟨i, hcond, hcut, hguard⟩ := h
  obtain ⟨i', hcond', hcut', hguard'⟩ := h'
  refine guardedCurrent_sameNum hdpk hrpk ?_ hguard hguard'
  rcases eq_or_cutoff_of_sameButZeroSign (.inl he) with rfl | ⟨hoff, hoff'⟩
  · cases hon : flt posZero e0
    · exact .inl ((hcut hon).trans (hcut' hon).symm)
    · exact conductingCurrent_sameNum hrt (hcond hon) (hcond' hon)
  · exact .inl ((hcut hoff).trans (hcut' hoff').symm)

end

/-! ### The constants of TRI (R173) -/

section

variable {P : Params} {fs : Num32}

theorem triConsts_ext_values {k k' : TriConsts} (h : k'.values = k.values) : k' = k := by
  cases k
  cases k'
  simp only [TriConsts.values, List.cons.injEq] at h
  simp [h]

theorem derivedTri_unique {k k' : TriConsts} (h : DerivedTri P fs k) (h' : DerivedTri P fs k')
    (hfin : allFinite k.values = true) : k' = k := by
  obtain ⟨e, hkg, hkk, hr0k, hr0p, hkps, hko, hkso, himu, hrpk, hrt, hidc, hsk0, hso0, hak0, hap0, hi0⟩ := h
  obtain ⟨e', hkg', hkk', hr0k', hr0p', hkps', hko', hkso', himu', hrpk', hrt', hidc', hsk0', hso0', hak0', hap0',
    hi0'⟩ := h'
  have hr := sameNum_refl
  have htf := sameNum_fmul (e' 0) (e 0) (hr numTwo) (hr fs)
  have hxg := sameNum_fmul (e' 1) (e 1) (sameNum_fmul (e' 2) (e 2) htf (hr P.tcRg.num)) (hr P.tcCi.num)
  have hxk := sameNum_fmul (e' 3) (e 3) (sameNum_fmul (e' 4) (e 4) htf (hr P.tcRk.num)) (hr P.tcCk.num)
  have hgco := sameNum_fmul (e' 5) (e 5) htf (hr P.tcCo.num)
  have hrco := sameNum_guarded (P := P) (e' 6) (e' 7) (e 6) (e 7) (hr numOne) hgco
  have hrs := sameNum_fadd (e' 8) (e 8) (hr P.tcRo.num) hrco
  have skg := sameNum_of_eqs hkg' hkg (sameNum_guarded _ _ _ _ hxg (sameNum_fadd _ _ hxg (hr _)))
  have skk := sameNum_of_eqs hkk' hkk (sameNum_guarded _ _ _ _ hxk (sameNum_fadd _ _ hxk (hr _)))
  have sr0k := sameNum_of_eqs hr0k' hr0k (sameNum_guarded _ _ _ _ (hr _) (sameNum_fadd _ _ hxk (hr _)))
  have sr0p := sameNum_of_eqs hr0p' hr0p
    (sameNum_guarded _ _ _ _ (sameNum_fmul _ _ (hr _) hrs) (sameNum_fadd _ _ (hr _) hrs))
  have skps := sameNum_of_eqs hkps' hkps (sameNum_guarded _ _ _ _ sr0p hrs)
  have sko := sameNum_of_eqs hko' hko (sameNum_guarded _ _ _ _ (hr _) hrs)
  have skso := sameNum_of_eqs hkso' hkso (sameNum_guarded _ _ _ _ (sameNum_fmul _ _ (hr _) hrco) hrs)
  have simu := sameNum_of_eqs himu' himu (sameNum_guarded _ _ _ _ (hr _) (hr _))
  have srpk := sameNum_of_eqs hrpk' hrpk (sameNum_fadd _ _ sr0p sr0k)
  have srt := sameNum_of_eqs hrt' hrt (sameNum_fadd _ _ sr0k (sameNum_fmul _ _ srpk simu))
  have hrpk0 := sameNum_fadd (e' 12) (e 12) (hr P.tcRp.num) (hr P.tcRk.num)
  have hrt0 := sameNum_fadd (e' 13) (e 13) (hr P.tcRk.num) (sameNum_fmul (e' 14) (e 14) hrpk0 simu)
  have sidc := junctionCurrent_sameNum (sameNum_fmul _ _ (hr _) simu) (hr _) hrt0 hrpk0 hidc' hidc
  have ssk0 := sameNum_of_eqs hsk0' hsk0 (sameNum_fmul _ _ (hr _) sidc)
  have sso0 := sameNum_of_eqs hso0' hso0 (sameNum_fsub _ _ (hr _) (sameNum_fmul _ _ (hr _) sidc))
  have sak0 := sameNum_of_eqs hak0' hak0 (sameNum_fmul _ _ skk ssk0)
  have hkpb := sameNum_fmul (e' 9) (e 9) (sameNum_guarded (P := P) (e' 10) (e' 11) (e 10) (e 11) sr0p (hr P.tcRp.num))
    (hr P.tcVb.num)
  have sap0 := sameNum_of_eqs hap0' hap0 (sameNum_fadd _ _ hkpb (sameNum_fmul _ _ skps sso0))
  have hdpk0 := sameNum_fsub (e' 15) (e 15) sap0 sak0
  have si0 := junctionCurrent_sameNum
    (sameNum_fadd _ _ (sameNum_fsub _ _ (hr _) sak0) (sameNum_fmul _ _ hdpk0 simu)) hdpk0 srt srpk hi0' hi0
  have hvalues : List.Forall₂ SameNum k'.values k.values := by
    simp [TriConsts.values, skg, skk, sr0k, sap0, skps, sr0p, sko, skso, srt, srpk, simu, ssk0, sso0, sidc, sak0, si0]
  exact triConsts_ext_values (eq_of_forall₂_sameNum hvalues hfin)

end

/-! ### `PREPARE` again (R112, R242) -/

section

variable {P : Params} {s : State}

/-- The configuration staged for `PREPARE` is the same in both states (R30 to R33). -/
structure SameStaged (s t : State) : Prop where
  sr : t.cfgSr = s.cfgSr
  maxblk : t.cfgMaxblk = s.cfgMaxblk
  nch : t.cfgNch = s.cfgNch
  osf : t.cfgOsf = s.cfgOsf

theorem sameStaged_prepareBody (P : Params) (s : State) : SameStaged s (advance (prepareBody P s)) := by
  constructor <;> simp [prepareBody]

/-- What `PREPARE` accepts is decided by the staged configuration (R112). -/
theorem SameStaged.configAccepted {t : State} (h : SameStaged s t) (hs : ConfigAccepted P s) : ConfigAccepted P t := by
  obtain ⟨hrate, hpositive, hblock, hblock', hchannels, hchannels', hfactor⟩ := hs
  constructor <;> simpa only [h.sr, h.maxblk, h.nch, h.osf]

/-- Every channel is as after hardware reset, the sixteen of the vector with it. -/
theorem prepareBody_chans (P : Params) (s : State) : (prepareBody P s).chans = Vector.replicate 16 Channel.reset := by
  ext c hc
  have hchan := prepareBody_chan P s c
  rw [chan_eq, dif_pos hc] at hchan
  rw [hchan, Vector.getElem_replicate]

/-- `NF` is as before when every derived value is finite (R218). -/
theorem prepareBody_nf_of_finite (hfin : allFinite (derivedValues (prepareBody P s)) = true) :
    (prepareBody P s).nf = s.nf := by
  rw [Bool.eq_iff_iff, prepareBody_nf_iff, hfin]
  simp

/-- The fields `PREPARE` writes; the others keep their values. -/
theorem prepareBody_others (P : Params) (s : State) :
    prepareBody P s = { s with
      prepared := (prepareBody P s).prepared, nf := (prepareBody P s).nf, actSr := (prepareBody P s).actSr,
      actMaxblk := (prepareBody P s).actMaxblk, actNch := (prepareBody P s).actNch,
      actOsf := (prepareBody P s).actOsf, fsProc := (prepareBody P s).fsProc, dk := (prepareBody P s).dk,
      ok := (prepareBody P s).ok, tk := (prepareBody P s).tk, bq := (prepareBody P s).bq,
      chans := (prepareBody P s).chans } := by
  cases s
  rfl

/-- The constants `PREPARE` derives, finite as they are, and the configuration it puts in force come out of a second
`PREPARE` of the same staged configuration as they were. -/
theorem SameStaged.constants {t : State} (h : SameStaged s t)
    (hfin : allFinite (derivedValues (prepareBody P s)) = true) :
    SameConstants (prepareBody P s) (prepareBody P t) := by
  simp only [derivedValues, allFinite, List.all_cons, List.all_append, Bool.and_eq_true] at hfin
  obtain ⟨hfs, ⟨hdk, hok⟩, htk⟩ := hfin
  have hfsProc : (prepareBody P t).fsProc = (prepareBody P s).fsProc := by
    refine eq_of_sameNum_finite ?_ hfs
    rw [prepareBody_fsProc, prepareBody_fsProc, h.sr, h.osf]
    exact sameNum_fmul _ _ (sameNum_refl _) (sameNum_refl _)
  exact {
    prepared := rfl
    actSr := h.sr
    actMaxblk := h.maxblk
    actNch := h.nch
    actOsf := h.osf
    fsProc := hfsProc
    dk := derivedDws_unique (prepareBody_dk_derived P s) (hfsProc ▸ prepareBody_dk_derived P t) hdk
    ok := derivedOac_unique (prepareBody_ok_derived P s) (prepareBody_ok_derived P t) hok
    tk := derivedTri_unique (prepareBody_tk_derived P s) (hfsProc ▸ prepareBody_tk_derived P t) htk }

/-- `PREPARE` changes nothing where it derives the constants that are there, all finite, and finds the sections and the
channels as it leaves them. -/
theorem prepareBody_eq_self {t : State} (hconstants : SameConstants t (prepareBody P t))
    (hfin : allFinite (derivedValues t) = true) (hbq : t.bq = Vector.replicate 16 Biquad.identity)
    (hchans : t.chans = Vector.replicate 16 Channel.reset) : prepareBody P t = t := by
  have hnf : (prepareBody P t).nf = t.nf :=
    prepareBody_nf_of_finite (by rwa [derivedValues_congr hconstants])
  have hbq' : (prepareBody P t).bq = t.bq := hbq.symm
  have hchans' : (prepareBody P t).chans = t.chans := (prepareBody_chans P t).trans hchans.symm
  rw [prepareBody_others, hconstants.prepared, hconstants.actSr, hconstants.actMaxblk, hconstants.actNch,
    hconstants.actOsf, hconstants.fsProc, hconstants.dk, hconstants.ok, hconstants.tk, hnf, hbq', hchans']

/-- A second `PREPARE` finds everything it writes already there (R242). -/
theorem prepareBody_again (hfin : allFinite (derivedValues (prepareBody P s)) = true) :
    prepareBody P (advance (prepareBody P s)) = advance (prepareBody P s) := by
  have hconstants := (sameStaged_prepareBody P s).constants hfin
  exact prepareBody_eq_self { hconstants with } hfin rfl (prepareBody_chans P s)

/-- `PREPARE` of an accepted configuration runs. -/
theorem prepareOn_runs (hf : s.faulted = false) (hconfig : ConfigAccepted P s) :
    prepareOn P s = .next (advance (prepareBody P s)) :=
  command_runs hf ((configCheck_none P s).mpr hconfig) (Nat.zero_le _)

theorem prepareOn_of_eq_self {t : State} (hf : t.faulted = false) (hconfig : ConfigAccepted P t)
    (hself : prepareBody P t = t) : prepareOn P t = .next { t with cc := t.cc + 1, draws := t.draws + 1 } := by
  rw [prepareOn_runs hf hconfig, hself]
  rfl

end

/-- Settles O18: the second `PREPARE` passes the check of the first, and its body changes nothing. -/
theorem prepareTwiceIsPrepareOnce : Obligations.PrepareTwiceIsPrepareOnce := by
  intro P s t hf hconfig hrun hfin
  rw [prepareOn_runs hf hconfig] at hrun
  cases hrun
  have hf' : (advance (prepareBody P s)).faulted = false := by simpa [prepareBody] using hf
  exact ⟨_, prepareOn_of_eq_self hf' ((sameStaged_prepareBody P s).configAccepted hconfig) (prepareBody_again hfin)⟩

end Sys2Proof.Proofs
